-- ==== Sys2Proof/Word.lean ====
section
/-! DEFINITION. The value types of the machine (00_scope.md R10, R12): all values are unsigned. -/

namespace Sys2Proof

/-- An 8-bit value (R10): a memory byte, a V register, a timer. -/
abbrev Byte := BitVec 8

/-- A 16-bit value (R10): `I`, `pc`, a stack entry, an instruction word. -/
abbrev Word := BitVec 16

/-- The number of one of sixteen like things: a V register (10_state.md R21) or a key (R30). -/
abbrev Reg := Fin 16

/-- V0, the implicit operand of BNNN (10_state.md R21). -/
abbrev V0 : Reg := 0

/-- VF, the register the flag-writing instructions write (10_state.md R22). -/
abbrev VF : Reg := 15

end Sys2Proof
end

