-- ==== Sys2Proof/Machine/Flags.lean ====
section
/-! DEFINITION. The values the flag-writing instructions put in VF (10_state.md R22, 42_register_alu.md R152). -/

namespace Sys2Proof.Machine

/-- `c ? 1 : 0`. -/
def flagByte (c : Bool) : Byte := if c then 1 else 0

/-- 8XY4: 1 exactly when `a + b > 255`. -/
def carryFlag (a b : Byte) : Byte := flagByte (decide (255 < a.toNat + b.toNat))

/-- 8XY5 with `a - b`, 8XY7 with its operands exchanged: 1 exactly when the minuend is strictly greater. -/
def noBorrowFlag (minuend subtrahend : Byte) : Byte := flagByte (decide (subtrahend.toNat < minuend.toNat))

/-- 8XY6: the bit shifted out on the right, `a & 1`. -/
def lowBitFlag (a : Byte) : Byte := a &&& 1

/-- 8XYE: the bit shifted out on the left, `(a & 0x80) != 0 ? 1 : 0`. -/
def highBitFlag (a : Byte) : Byte := flagByte (decide (a &&& 0x80 ≠ 0))

/-- DXYN: 1 if some pixel went from on to off. -/
def collisionFlag (collision : Bool) : Byte := flagByte collision

end Sys2Proof.Machine
end

