-- ==== Sys2Proof/Config.lean ====
section
/-! DEFINITION. The parameters of 00_scope.md R9 and the free values the spec leaves open. The fixed sizes of R9 stand where
they are used: `MEM_SIZE` 4096 (Machine/Memory.lean), `FONT_SIZE` 80, `MAX_PROGRAM` 3584, `NUM_V` 16, `STACK_DEPTH` 16,
`WIDTH` 64, `HEIGHT` 32, `NUM_KEYS` 16, `CYCLE_WIDTH` 64 (the types of Machine/State.lean). `FONT` and `FX0A_MODE`, which are
open, are fields of the state (log 1). -/

namespace Sys2Proof

/-- `FX0A_MODE` (R9, 45_timers_keypad.md R181): what FX0A stores when a key is down. -/
inductive FX0AMode where
  /-- FX0A stores the constant 1 (the source's default). -/
  | original
  /-- FX0A stores the index of the least pressed key. -/
  | canonical
  deriving DecidableEq, Repr

/-- `GLYPH_STRIDE`. -/
@[simp] def Config.glyphStride : Nat := 5

/-- `PROGRAM_BASE`. -/
@[simp] def Config.programBase : Nat := 0x200

/-- FREE VALUE (log 6; R8, U5): the byte `random_byte()` gives at the draw of this index. -/
opaque Config.randomByte : Nat → Byte

/-- FREE VALUE (log 7; D18, U10): what `cycle_count` holds after a STEP that found it at 2^64 - 1. -/
opaque Config.cycleCountPastMax : Nat → BitVec 64

end Sys2Proof
end

