-- ==== Sys2Proof/Machine/State.lean ====
section
/-! DEFINITION. The architectural state (10_state.md R20), the errors of a STEP (60_exceptions.md R190), the state after
CONSTRUCT (10_state.md R39, 70_reset_and_hazards.md R220). -/

namespace Sys2Proof.Machine

/-- `ExecError`, the errors a STEP returns (R190; names and payloads: log 19). Each leaves the state as it was before the
STEP (R16, R199; log 10). -/
inductive Fault where
  /-- Raised by decode: the fetched word selects no row (R191). Safe: the spec names this error. -/
  | unknownOpcode (opcode pc : Word)
  /-- Raised by 2NNN with `sp = 16` (R192). Safe: the spec names this error. -/
  | stackOverflow
  /-- Raised by 00EE with `sp = 0` (R193). Safe: the spec names this error. -/
  | stackUnderflow
  /-- Raised by fetch, DXYN, FX33, FX55, FX65 for an address above 4095 (R194; log 8). Safe: a fault where the original
  goes on with undefined behaviour. -/
  | addressOutOfBounds (addr : Nat) (pc : Word)
  /-- Raised by EX9E, EXA1 with `V[X] > 15` (R195; log 9). Safe: a fault where the original goes on. -/
  | keyIndexOutOfRange (value : Byte) (pc : Word)
  deriving DecidableEq, Repr

/-- Reasons an instruction has no meaning. Every instruction has one, so no step answers this. -/
inductive Refusal where
  /-- Raised by no arm of `exec`: every instruction is modelled. Safe. -/
  | notModelled (mnemonic : String)
  deriving DecidableEq, Repr

/-- The bytes of `mem` that differ from the reset contents, by address, in the canonical form `Memory.wf`. -/
abbrev Memory := List Host.Cell

/-- `fb` (R29): 32 rows of 64 pixels, row-major (D23, log 20); on is true. -/
abbrev Framebuffer := Vector (Vector Bool 64) 32

/-- Every pixel off. -/
def Framebuffer.blank : Framebuffer := Vector.replicate 32 (Vector.replicate 64 false)

/-- The complete state of the Machine: the twelve items of R20 under the spec's names, the two open parameters of R9
(log 1), and the model's index of the next free value (log 6). -/
structure State where
  /-- `V[0..15]` (R21). -/
  v : Vector Byte 16
  /-- `I` (R23). -/
  i : Word
  /-- `pc` (R24). -/
  pc : Word
  /-- `stack[0..15]` (R27). -/
  stack : Vector Word 16
  /-- `sp`, the number of live entries, 0..16 (R27). -/
  sp : Fin 17
  /-- `delay` (R28). -/
  delay : Byte
  /-- `sound` (R28). -/
  sound : Byte
  /-- `fb` (R29). -/
  fb : Framebuffer
  /-- `key[0..15]` (R30); pressed is true. -/
  key : Vector Bool 16
  /-- `mem[0..4095]` (R60). -/
  mem : Memory
  /-- `cycle_count` (R33). -/
  cycleCount : BitVec 64
  /-- `program_size`, 0..3584 (R34). -/
  programSize : Fin 3585
  /-- The parameter `FX0A_MODE` (R9); only CONSTRUCT sets it. -/
  fx0aMode : FX0AMode
  /-- The parameter `FONT` (R9, R62); only CONSTRUCT sets it. -/
  font : Vector Byte 80
  /-- The model's own: the index of the next free value (log 6). -/
  draws : Nat
  deriving DecidableEq, Repr

/-- The state after CONSTRUCT with the default parameters (R39, R220). `pc`, the font's presence and the empty stack are the
source's; the other values are the spec's decisions D1 and D2 (log 4, log 5). -/
def State.reset : State where
  v := Vector.replicate 16 0
  i := 0
  pc := 0x200
  stack := Vector.replicate 16 0
  sp := 0
  delay := 0
  sound := 0
  fb := Framebuffer.blank
  key := Vector.replicate 16 false
  mem := []
  cycleCount := 0
  programSize := 0
  fx0aMode := .original
  font := defaultFont
  draws := 0

end Sys2Proof.Machine
end

