-- ==== Sys2Proof/Machine/Memory.lean ====
section
/-! DEFINITION. Memory as a canonical list of cells (20_memory.md R60, R61): one read, one write, one well-formedness check. -/

namespace Sys2Proof.Machine

/-- What an address reads as that no cell lists: the reset contents (R39): the font at 0..79, 0 from 80 on (log 5). -/
def Memory.unlisted (font : Vector Byte 80) (a : Nat) : Byte := if h : a < 80 then font[a] else 0

/-- The byte at address `a`. Callers have checked `a` (R63, R74; log 26). -/
def Memory.read (font : Vector Byte 80) : Memory → Nat → Byte
  | [], a => Memory.unlisted font a
  | (k, b) :: m, a => if k = a then b else Memory.read font m a

/-- The cells at `a` and above put in front: nothing where `b` is what `a` reads as unlisted. -/
def Memory.cons (font : Vector Byte 80) (a : Nat) (b : Byte) (m : Memory) : Memory :=
  if b = Memory.unlisted font a then m else (a, b) :: m

/-- Put `b` at `a`, keeping the cells strictly rising. -/
def Memory.insert (font : Vector Byte 80) : Memory → Nat → Byte → Memory
  | [], a, b => Memory.cons font a b []
  | (k, c) :: m, a, b =>
    if a < k then Memory.cons font a b ((k, c) :: m)
    else if a = k then Memory.cons font a b m
    else (k, c) :: Memory.insert font m a b

/-- Write `b` at `a`. Callers have checked `a`; there is no memory above 4095 to write (log 26). -/
def Memory.write (font : Vector Byte 80) (m : Memory) (a : Nat) (b : Byte) : Memory :=
  if a < 4096 then Memory.insert font m a b else m

/-- The cells are strictly rising from `lo`, inside 0..4095, and none is what its address reads as unlisted. -/
def Memory.wfFrom (font : Vector Byte 80) : Nat → Memory → Bool
  | _, [] => true
  | lo, (k, b) :: m =>
    decide (lo ≤ k) && decide (k < 4096) && decide (b ≠ Memory.unlisted font k) && Memory.wfFrom font (k + 1) m

/-- The canonical form: equal memories are equal lists. -/
def Memory.wf (font : Vector Byte 80) (m : Memory) : Bool := Memory.wfFrom font 0 m

end Sys2Proof.Machine
end

