-- ==== Sys2Proof/Machine/Ops.lean ====
section
/-! DEFINITION. The named operations over registers, memory, stack and pixels that every meaning is written with, and the one
way an instruction raises an error (00_scope.md R15 to R17). -/

namespace Sys2Proof.Machine

/-- What a meaning answers. -/
abbrev Result := Host.Outcome State Fault Refusal

/-! ## Raising an error

The spec's whole account of taking an exception: there is no handler, no vector and no saved register; the STEP ends with the
error and the machine state is exactly what it was before it (R16, 60_exceptions.md R199). There is no return from one
(R200): nothing was entered. -/

/-- `raise <Error>` (R16). The state before the STEP stays (log 10); `transact` shows the host keeping it. -/
def raise (f : Fault) : Result := .fault f

/-! ## Registers -/

/-- `V[x]` (10_state.md R21). -/
def State.getV (s : State) (x : Reg) : Byte := s.v[x]

/-- `V[x] <- b`. -/
def State.setV (s : State) (x : Reg) (b : Byte) : State := { s with v := s.v.set x b }

/-- `I <- w`. -/
def State.setI (s : State) (w : Word) : State := { s with i := w }

/-- `pc <- w`. -/
def State.setPc (s : State) (w : Word) : State := { s with pc := w }

/-- `delay <- b`. -/
def State.setDelay (s : State) (b : Byte) : State := { s with delay := b }

/-- `sound <- b`. -/
def State.setSound (s : State) (b : Byte) : State := { s with sound := b }

/-- `Next()` (R17): `pc <- (pc + 2) mod 65536` (D26, log 17). -/
def State.advance (s : State) : State := s.setPc (s.pc + 2)

/-- `Skip(c)` (R17): `pc <- (pc + (c ? 4 : 2)) mod 65536`. -/
def State.skipIf (s : State) (c : Bool) : State := s.setPc (s.pc + if c then 4 else 2)

/-! ## Memory -/

/-- The byte at `a`, for an `a` that is checked (R63). -/
def State.readByte (s : State) (a : Nat) : Byte := s.mem.read s.font a

/-- The memory of the machine replaced. -/
def State.setMem (s : State) (m : Memory) : State := { s with mem := m }

/-- `mem[a] <- b`, for an `a` that is checked (R63). -/
def State.writeByte (s : State) (a : Nat) (b : Byte) : State := s.setMem (s.mem.write s.font a b)

/-- Bytes written at ascending addresses from `base` (R74). -/
def State.writeBytes (s : State) (base : Nat) : List Byte → State
  | [] => s
  | b :: bs => (s.writeByte base b).writeBytes (base + 1) bs

/-- Check before access (R63, R74): a run of `n` bytes from `base` raises AddressOutOfBounds iff `n > 0` and
`base + n - 1 > 4095`, with the lowest address outside; otherwise the instruction goes on with `k` (D4, log 8). -/
def withRun (base n : Nat) (s : State) (k : Result) : Result :=
  if 0 < n ∧ 4095 < base + n - 1 then raise (.addressOutOfBounds (max base 4096) s.pc) else k

/-! ## The call stack (10_state.md R27; D15, log 16) -/

/-- The stack and the number of its live entries replaced. -/
def State.setStack (s : State) (stack : Vector Word 16) (sp : Fin 17) : State := { s with stack := stack, sp := sp }

/-- `Push(w)`, or none where `sp = 16`. -/
def State.push (s : State) (w : Word) : Option State :=
  if h : s.sp.val < 16 then some (s.setStack (s.stack.set s.sp.val w) ⟨s.sp.val + 1, by omega⟩) else none

/-- `Pop()`: the popped value and the state after it, or none where `sp = 0`. The entry is not erased. -/
def State.pop (s : State) : Option (Word × State) :=
  if h : 0 < s.sp.val then some (s.stack[s.sp.val - 1], s.setStack s.stack ⟨s.sp.val - 1, by omega⟩) else none

/-! ## Framebuffer and keys -/

/-- `fb[x][y]` of a framebuffer: column `x`, row `y` (R29). -/
def Framebuffer.pixel (fb : Framebuffer) (x : Fin 64) (y : Fin 32) : Bool := fb[y][x]

/-- `fb[x][y] <- b`. -/
def Framebuffer.setPixel (fb : Framebuffer) (x : Fin 64) (y : Fin 32) (b : Bool) : Framebuffer :=
  fb.set y (fb[y].set x b)

/-- `fb[x][y]` of the machine. -/
def State.pixel (s : State) (x : Fin 64) (y : Fin 32) : Bool := s.fb.pixel x y

/-- The framebuffer replaced. -/
def State.setFb (s : State) (fb : Framebuffer) : State := { s with fb := fb }

/-- `key[k]` (R30). -/
def State.getKey (s : State) (k : Reg) : Bool := s.key[k]

/-- `key[k] <- b`: the host's KEY_WRITE (R32). -/
def State.setKey (s : State) (k : Reg) (b : Bool) : State := { s with key := s.key.set k b }

/-! ## Completing a STEP (30_encoding.md R98, step 4) -/

/-- `cycle_count + 1`; the value after 2^64 - 1 is free (D18, log 7). -/
def nextCycleCount (c : BitVec 64) (draw : Nat) : BitVec 64 :=
  if c = BitVec.allOnes 64 then Config.cycleCountPastMax draw else c + 1

/-- Count one completed STEP, and move to the next free value (R8: every STEP has a `rand` of its own). -/
def State.countCycle (s : State) : State :=
  { s with cycleCount := nextCycleCount s.cycleCount s.draws, draws := s.draws + 1 }

/-- A STEP that completes is counted; one that raises changes nothing (R98). -/
def complete : Result → Result
  | .next t => .next t.countCycle
  | .fault f => .fault f
  | .refused r => .refused r

end Sys2Proof.Machine
end

