-- ==== Sys2Proof/Machine/Operands.lean ====
section
/-! DEFINITION. Operand forms: how the instructions form addresses, indices and operand lists (20_memory.md R67,
30_encoding.md R93). -/

namespace Sys2Proof.Machine

/-- The one addressing mode for data: `I` plus an element index, a natural number that is not reduced (R67). -/
def indexAddr (s : State) (k : Nat) : Nat := s.i.toNat + k

/-- `(I + Vx) mod 65536` (43_index_memory.md R161; D11, log 14). -/
def indexPlus (i : Word) (b : Byte) : Word := BitVec.ofNat 16 (i.toNat + b.toNat)

/-- `Vx * 5`, the base of glyph `Vx`; `Vx` is not masked (R162; D12, log 14). -/
def glyphAddr (b : Byte) : Word := BitVec.ofNat 16 (b.toNat * Config.glyphStride)

/-- `(V0 + NNN) mod 65536` (40_control_flow.md R123). -/
def jumpTarget (b : Byte) (nnn : Word) : Word := BitVec.ofNat 16 (b.toNat + nnn.toNat)

/-- What 2NNN pushes: `(pc + 2) mod 65536` (R122). -/
def returnAddress (s : State) : Word := s.pc + 2

/-- The hundreds, tens and ones of a byte, a byte each (R163). -/
def bcdDigits (b : Byte) : List Byte :=
  [BitVec.ofNat 8 (b.toNat / 100), BitVec.ofNat 8 (b.toNat / 10 % 10), BitVec.ofNat 8 (b.toNat % 10)]

/-- `V0 .. V[n-1]`, ascending (R164). -/
def firstRegs (s : State) (n : Nat) : List Byte := ((List.finRange 16).take n).map s.getV

/-- `V[j] <- mem[I + j]` for `j` in `0 .. n-1`, ascending (R165). -/
def loadRegs (s : State) : Nat → State
  | 0 => s
  | n + 1 => (loadRegs s n).setV (Fin.ofNat 16 n) (s.readByte (indexAddr s n))

/-- The key that the value of `V[x]` names, checked (41_skips.md R134; D5, log 9). -/
def withKey (x : Reg) (s : State) (k : Reg → Result) : Result :=
  if h : (s.getV x).toNat < 16 then k ⟨(s.getV x).toNat, h⟩ else raise (.keyIndexOutOfRange (s.getV x) s.pc)

/-- The least `k` in 0..15 with `key[k]` true (45_timers_keypad.md R181; D9, log 3). -/
def leastPressed (s : State) : Option Reg := (List.finRange 16).find? s.getKey

end Sys2Proof.Machine
end

