-- ==== Sys2Proof/Machine/Alu.lean ====
section
/-! DEFINITION. Register loads and ALU operations (42_register_alu.md). Assignments are sequential: each reads the registers
as the one before left them (R153; D7, log 11). -/

namespace Sys2Proof.Machine

/-- 6XNN (R140): `Vx <- NN`. -/
def execLdVxNn (x : Reg) (nn : Byte) (s : State) : Result := .next (s.setV x nn).advance

/-- 7XNN (R141): `Vx <- (Vx + NN) mod 256`; VF is not written. -/
def execAddVxNn (x : Reg) (nn : Byte) (s : State) : Result := .next (s.setV x (s.getV x + nn)).advance

/-- 8XY0 (R142): `Vx <- Vy`. -/
def execLdVxVy (x y : Reg) (s : State) : Result := .next (s.setV x (s.getV y)).advance

/-- 8XY1 (R143): `Vx <- Vx | Vy`. -/
def execOrVxVy (x y : Reg) (s : State) : Result := .next (s.setV x (s.getV x ||| s.getV y)).advance

/-- 8XY2 (R144): `Vx <- Vx & Vy`. -/
def execAndVxVy (x y : Reg) (s : State) : Result := .next (s.setV x (s.getV x &&& s.getV y)).advance

/-- 8XY3 (R145): `Vx <- Vx ^ Vy`. -/
def execXorVxVy (x y : Reg) (s : State) : Result := .next (s.setV x (s.getV x ^^^ s.getV y)).advance

/-- 8XY4 (R146): `Vx <- s mod 256`, then `VF <- s > 255`, for the sum `s` of the operands as they were. -/
def execAddVxVy (x y : Reg) (s : State) : Result :=
  let s₁ := s.setV x (s.getV x + s.getV y)
  .next (s₁.setV VF (carryFlag (s.getV x) (s.getV y))).advance

/-- 8XY5 (R147): `VF <- Vx > Vy`, then `Vx <- (Vx - Vy) mod 256` on the registers after the VF write. -/
def execSubVxVy (x y : Reg) (s : State) : Result :=
  let s₁ := s.setV VF (noBorrowFlag (s.getV x) (s.getV y))
  .next (s₁.setV x (s₁.getV x - s₁.getV y)).advance

/-- 8XY6 (R148): `VF <- Vx & 1`, then `Vx <- Vx >> 1` on the registers after the VF write; `y` is ignored. -/
def execShrVx (x _y : Reg) (s : State) : Result :=
  let s₁ := s.setV VF (lowBitFlag (s.getV x))
  .next (s₁.setV x (s₁.getV x >>> 1)).advance

/-- 8XY7 (R149): `VF <- Vy > Vx`, then `Vx <- (Vy - Vx) mod 256` on the registers after the VF write. -/
def execSubnVxVy (x y : Reg) (s : State) : Result :=
  let s₁ := s.setV VF (noBorrowFlag (s.getV y) (s.getV x))
  .next (s₁.setV x (s₁.getV y - s₁.getV x)).advance

/-- 8XYE (R150): `VF <- bit 7 of Vx`, then `Vx <- (Vx * 2) mod 256` on the registers after the VF write; `y` is ignored. -/
def execShlVx (x _y : Reg) (s : State) : Result :=
  let s₁ := s.setV VF (highBitFlag (s.getV x))
  .next (s₁.setV x (s₁.getV x <<< 1)).advance

/-- CXNN (R151) for a given draw: `Vx <- rand & NN`. -/
def rndWith (rand : Byte) (x : Reg) (nn : Byte) (s : State) : Result := .next (s.setV x (rand &&& nn)).advance

/-- CXNN (R151): `rand` is the free value of this STEP (R8; D17, log 6). -/
def execRndVxNn (x : Reg) (nn : Byte) (s : State) : Result := rndWith (Config.randomByte s.draws) x nn s

end Sys2Proof.Machine
end

