-- ==== Sys2Proof/Machine/Control.lean ====
section
/-! DEFINITION. Control transfer (40_control_flow.md): none adds 2 to its target (R124). -/

namespace Sys2Proof.Machine

/-- 00EE (R120): `pc <- Pop()`. -/
def execRet (s : State) : Result :=
  match s.pop with
  | some (t, s') => .next (s'.setPc t)
  | none => raise .stackUnderflow

/-- 1NNN (R121): `pc <- NNN`. -/
def execJpNnn (nnn : Word) (s : State) : Result := .next (s.setPc nnn)

/-- 2NNN (R122): `Push(pc + 2); pc <- NNN`. -/
def execCallNnn (nnn : Word) (s : State) : Result :=
  match s.push (returnAddress s) with
  | some s' => .next (s'.setPc nnn)
  | none => raise .stackOverflow

/-- BNNN (R123): `pc <- V0 + NNN`. -/
def execJpV0Nnn (nnn : Word) (s : State) : Result := .next (s.setPc (jumpTarget (s.getV V0) nnn))

end Sys2Proof.Machine
end

