-- ==== Sys2Proof/Machine/Display.lean ====
section
/-! DEFINITION. The framebuffer instructions (44_display.md). -/

namespace Sys2Proof.Machine

/-- A drawing in progress: the framebuffer and whether a pixel has gone from on to off. -/
abbrev Drawing := Framebuffer × Bool

/-- One sprite bit at one pixel: XOR, and a collision when the pixel goes from on to off (R171). -/
def xorPixel (d : Drawing) (px : Fin 64) (py : Fin 32) (bit : Bool) : Drawing :=
  let old := d.1.pixel px py
  let new := old ^^ bit
  (d.1.setPixel px py new, d.2 || (old && !new))

/-- Columns `0 .. n-1` of one sprite byte, column 0 its bit 7, wrapping modulo 64 (R171, R172). -/
def drawColumns (b : Byte) (x0 : Nat) (py : Fin 32) (d : Drawing) : Nat → Drawing
  | 0 => d
  | col + 1 => xorPixel (drawColumns b x0 py d col) (Fin.ofNat 64 (x0 + col)) py (b.getLsbD (7 - col))

/-- Rows `0 .. n-1` of the sprite at `I`, a byte a row, wrapping modulo 32 (R171, R172). -/
def drawRows (s : State) (x0 y0 : Nat) : Nat → Drawing
  | 0 => (s.fb, false)
  | row + 1 =>
    drawColumns (s.readByte (indexAddr s row)) x0 (Fin.ofNat 32 (y0 + row)) (drawRows s x0 y0 row) 8

/-- 00E0 (R170): every pixel off. -/
def execCls (s : State) : Result := .next (s.setFb Framebuffer.blank).advance

/-- DXYN (R171): the position is sampled first and VF is written last; `N = 0` draws nothing and clears VF (D8, log 12). -/
def execDrwVxVyN (x y : Reg) (n : Nat) (s : State) : Result :=
  withRun (indexAddr s 0) n s
    (let d := drawRows s (s.getV x).toNat (s.getV y).toNat n
     .next ((s.setFb d.1).setV VF (collisionFlag d.2)).advance)

end Sys2Proof.Machine
end

