-- ==== Sys2Proof/Machine/IndexMemory.lean ====
section
/-! DEFINITION. The index register and the loads and stores addressed through it (43_index_memory.md). FX33, FX55 and FX65
leave `I` as it was (R166; D13, log 14). -/

namespace Sys2Proof.Machine

/-- ANNN (R160): `I <- NNN`. -/
def execLdINnn (nnn : Word) (s : State) : Result := .next (s.setI nnn).advance

/-- FX1E (R161): `I <- (I + Vx) mod 65536`; VF is not written. -/
def execAddIVx (x : Reg) (s : State) : Result := .next (s.setI (indexPlus s.i (s.getV x))).advance

/-- FX29 (R162): `I <- Vx * 5`. -/
def execLdFVx (x : Reg) (s : State) : Result := .next (s.setI (glyphAddr (s.getV x))).advance

/-- FX33 (R163): the decimal digits of `Vx` at `I`, `I + 1`, `I + 2`. -/
def execLdBVx (x : Reg) (s : State) : Result :=
  withRun (indexAddr s 0) 3 s (.next (s.writeBytes (indexAddr s 0) (bcdDigits (s.getV x))).advance)

/-- FX55 (R164): `V0 .. Vx` at `I .. I + X`. -/
def execLdMemIVx (x : Reg) (s : State) : Result :=
  withRun (indexAddr s 0) (x.val + 1) s (.next (s.writeBytes (indexAddr s 0) (firstRegs s (x.val + 1))).advance)

/-- FX65 (R165): `V0 .. Vx` from `I .. I + X`. -/
def execLdVxMemI (x : Reg) (s : State) : Result :=
  withRun (indexAddr s 0) (x.val + 1) s (.next (loadRegs s (x.val + 1)).advance)

end Sys2Proof.Machine
end

