-- ==== Sys2Proof/Machine/Skips.lean ====
section
/-! DEFINITION. Conditional skips (41_skips.md): `pc` moves by 4 when the condition holds, by 2 when not (R136). -/

namespace Sys2Proof.Machine

/-- 3XNN (R130): skip if `Vx == NN`. -/
def execSeVxNn (x : Reg) (nn : Byte) (s : State) : Result := .next (s.skipIf (decide (s.getV x = nn)))

/-- 4XNN (R131): skip if `Vx != NN`. -/
def execSneVxNn (x : Reg) (nn : Byte) (s : State) : Result := .next (s.skipIf (decide (s.getV x ≠ nn)))

/-- 5XY0 (R132): skip if `Vx == Vy`. -/
def execSeVxVy (x y : Reg) (s : State) : Result := .next (s.skipIf (decide (s.getV x = s.getV y)))

/-- 9XY0 (R133): skip if `Vx != Vy`. -/
def execSneVxVy (x y : Reg) (s : State) : Result := .next (s.skipIf (decide (s.getV x ≠ s.getV y)))

/-- EX9E (R134): skip if the key that the value of `Vx` names is pressed. -/
def execSkpVx (x : Reg) (s : State) : Result := withKey x s fun k => .next (s.skipIf (s.getKey k))

/-- EXA1 (R135): skip if the key that the value of `Vx` names is not pressed. -/
def execSknpVx (x : Reg) (s : State) : Result := withKey x s fun k => .next (s.skipIf (!s.getKey k))

end Sys2Proof.Machine
end

