-- ==== Sys2Proof/Machine/TimersKeypad.lean ====
section
/-! DEFINITION. Timer and keypad register instructions (45_timers_keypad.md). -/

namespace Sys2Proof.Machine

/-- FX07 (R180): `Vx <- delay`. -/
def execLdVxDt (x : Reg) (s : State) : Result := .next (s.setV x s.delay).advance

/-- What FX0A stores when `k` is the least pressed key (R181; log 3). -/
def keyValue (mode : FX0AMode) (k : Reg) : Byte :=
  match mode with
  | .original => 1
  | .canonical => BitVec.ofNat 8 k.val

/-- FX0A (R181), a poll that does not block: with no key down nothing changes and `pc` stays on it (the STEP still counts:
D10, log 13). -/
def execLdVxK (x : Reg) (s : State) : Result :=
  match leastPressed s with
  | none => .next s
  | some k => .next (s.setV x (keyValue s.fx0aMode k)).advance

/-- FX15 (R182): `delay <- Vx`. -/
def execLdDtVx (x : Reg) (s : State) : Result := .next (s.setDelay (s.getV x)).advance

/-- FX18 (R183): `sound <- Vx`. -/
def execLdStVx (x : Reg) (s : State) : Result := .next (s.setSound (s.getV x)).advance

end Sys2Proof.Machine
end

