-- ==== Sys2Proof/Syntax.lean ====
section
/-! DEFINITION. The 34 instructions of 30_encoding.md R95, one constructor per row of the opcode table, in its order. -/

namespace Sys2Proof

/-- An instruction with its operands as R93 assembles them: `X`, `Y` register numbers, `NN` a byte, `NNN` an address
zero-extended to 16 bits (so at most 0xFFF: `Instr.wellFormed`), `N` a row count (at most 15). -/
inductive Instr where
  /-- 00E0 -/
  | cls
  /-- 00EE -/
  | ret
  /-- 1NNN -/
  | jpNnn (nnn : Word)
  /-- 2NNN -/
  | callNnn (nnn : Word)
  /-- 3XNN -/
  | seVxNn (x : Reg) (nn : Byte)
  /-- 4XNN -/
  | sneVxNn (x : Reg) (nn : Byte)
  /-- 5XY0 -/
  | seVxVy (x y : Reg)
  /-- 6XNN -/
  | ldVxNn (x : Reg) (nn : Byte)
  /-- 7XNN -/
  | addVxNn (x : Reg) (nn : Byte)
  /-- 8XY0 -/
  | ldVxVy (x y : Reg)
  /-- 8XY1 -/
  | orVxVy (x y : Reg)
  /-- 8XY2 -/
  | andVxVy (x y : Reg)
  /-- 8XY3 -/
  | xorVxVy (x y : Reg)
  /-- 8XY4 -/
  | addVxVy (x y : Reg)
  /-- 8XY5 -/
  | subVxVy (x y : Reg)
  /-- 8XY6; `y` is encoded and ignored (R97, R148). -/
  | shrVx (x y : Reg)
  /-- 8XY7 -/
  | subnVxVy (x y : Reg)
  /-- 8XYE; `y` is encoded and ignored (R97, R150). -/
  | shlVx (x y : Reg)
  /-- 9XY0 -/
  | sneVxVy (x y : Reg)
  /-- ANNN -/
  | ldINnn (nnn : Word)
  /-- BNNN -/
  | jpV0Nnn (nnn : Word)
  /-- CXNN -/
  | rndVxNn (x : Reg) (nn : Byte)
  /-- DXYN -/
  | drwVxVyN (x y : Reg) (n : Nat)
  /-- EX9E -/
  | skpVx (x : Reg)
  /-- EXA1 -/
  | sknpVx (x : Reg)
  /-- FX07 -/
  | ldVxDt (x : Reg)
  /-- FX0A -/
  | ldVxK (x : Reg)
  /-- FX15 -/
  | ldDtVx (x : Reg)
  /-- FX18 -/
  | ldStVx (x : Reg)
  /-- FX1E -/
  | addIVx (x : Reg)
  /-- FX29 -/
  | ldFVx (x : Reg)
  /-- FX33 -/
  | ldBVx (x : Reg)
  /-- FX55 -/
  | ldMemIVx (x : Reg)
  /-- FX65 -/
  | ldVxMemI (x : Reg)
  deriving DecidableEq, Repr

end Sys2Proof
end

