-- ==== Sys2Proof/WellFormed.lean ====
section
/-! DEFINITION. Which instructions have an encoding: the operand widths of 30_encoding.md R91 and R93 (log 24). -/

namespace Sys2Proof

/-- `NNN` is 12 bits wide (R91). -/
def addressFits (nnn : Word) : Bool := decide (nnn.toNat < 4096)

/-- `N` is 4 bits wide (R91). -/
def rowCountFits (n : Nat) : Bool := decide (n < 16)

/-- The operands fit their fields. Register numbers and bytes do so by their types. -/
def Instr.wellFormed : Instr → Bool
  | .cls | .ret => true
  | .jpNnn nnn | .callNnn nnn | .ldINnn nnn | .jpV0Nnn nnn => addressFits nnn
  | .seVxNn _ _ | .sneVxNn _ _ | .ldVxNn _ _ | .addVxNn _ _ | .rndVxNn _ _ => true
  | .seVxVy _ _ | .sneVxVy _ _ | .ldVxVy _ _ | .orVxVy _ _ | .andVxVy _ _ | .xorVxVy _ _ => true
  | .addVxVy _ _ | .subVxVy _ _ | .shrVx _ _ | .subnVxVy _ _ | .shlVx _ _ => true
  | .drwVxVyN _ _ n => rowCountFits n
  | .skpVx _ | .sknpVx _ | .ldVxDt _ | .ldVxK _ | .ldDtVx _ | .ldStVx _ => true
  | .addIVx _ | .ldFVx _ | .ldBVx _ | .ldMemIVx _ | .ldVxMemI _ => true

end Sys2Proof
end

