-- ==== Sys2Proof/Decode.lean ====
section
/-! DEFINITION. Decoding (30_encoding.md R91, R94, R96) and, after it, the encoder (R92) and the opcode map's masks (R95). -/

namespace Sys2Proof

/-! ## The fields of an instruction word (R91) -/

/-- `op[15:12]`, the group. -/
def opGroup (op : Word) : Nat := op.toNat / 4096

/-- `X = op[11:8]`. -/
def opX (op : Word) : Reg := Fin.ofNat 16 (op.toNat / 256)

/-- `Y = op[7:4]`. -/
def opY (op : Word) : Reg := Fin.ofNat 16 (op.toNat / 16)

/-- `N = op[3:0]`. -/
def opN (op : Word) : Nat := op.toNat % 16

/-- `NN = op[7:0]`. -/
def opNN (op : Word) : Byte := BitVec.ofNat 8 op.toNat

/-- `NNN = op[11:0]`, zero-extended to 16 bits (R93). -/
def opNNN (op : Word) : Word := BitVec.ofNat 16 (op.toNat % 4096)

/-! ## Decode (R94)

Every fixed digit of a pattern must match (D14, log 15). -/

/-- Group 0: the whole word selects. -/
def decodeGroup0 (op : Word) : Option Instr :=
  match op.toNat with
  | 0x00E0 => some .cls
  | 0x00EE => some .ret
  | _ => none

/-- Group 8: `op[3:0]` selects. -/
def decodeGroup8 (op : Word) : Option Instr :=
  match opN op with
  | 0x0 => some (.ldVxVy (opX op) (opY op))
  | 0x1 => some (.orVxVy (opX op) (opY op))
  | 0x2 => some (.andVxVy (opX op) (opY op))
  | 0x3 => some (.xorVxVy (opX op) (opY op))
  | 0x4 => some (.addVxVy (opX op) (opY op))
  | 0x5 => some (.subVxVy (opX op) (opY op))
  | 0x6 => some (.shrVx (opX op) (opY op))
  | 0x7 => some (.subnVxVy (opX op) (opY op))
  | 0xE => some (.shlVx (opX op) (opY op))
  | _ => none

/-- Group E: `op[7:0]` selects. -/
def decodeGroupE (op : Word) : Option Instr :=
  match op.toNat % 256 with
  | 0x9E => some (.skpVx (opX op))
  | 0xA1 => some (.sknpVx (opX op))
  | _ => none

/-- Group F: `op[7:0]` selects. -/
def decodeGroupF (op : Word) : Option Instr :=
  match op.toNat % 256 with
  | 0x07 => some (.ldVxDt (opX op))
  | 0x0A => some (.ldVxK (opX op))
  | 0x15 => some (.ldDtVx (opX op))
  | 0x18 => some (.ldStVx (opX op))
  | 0x1E => some (.addIVx (opX op))
  | 0x29 => some (.ldFVx (opX op))
  | 0x33 => some (.ldBVx (opX op))
  | 0x55 => some (.ldMemIVx (opX op))
  | 0x65 => some (.ldVxMemI (opX op))
  | _ => none

/-- The instruction a word selects, or none where the word is an unknown opcode (R96). -/
def decodeWord (op : Word) : Option Instr :=
  match opGroup op with
  | 0x0 => decodeGroup0 op
  | 0x1 => some (.jpNnn (opNNN op))
  | 0x2 => some (.callNnn (opNNN op))
  | 0x3 => some (.seVxNn (opX op) (opNN op))
  | 0x4 => some (.sneVxNn (opX op) (opNN op))
  | 0x5 => if opN op = 0 then some (.seVxVy (opX op) (opY op)) else none
  | 0x6 => some (.ldVxNn (opX op) (opNN op))
  | 0x7 => some (.addVxNn (opX op) (opNN op))
  | 0x8 => decodeGroup8 op
  | 0x9 => if opN op = 0 then some (.sneVxVy (opX op) (opY op)) else none
  | 0xA => some (.ldINnn (opNNN op))
  | 0xB => some (.jpV0Nnn (opNNN op))
  | 0xC => some (.rndVxNn (opX op) (opNN op))
  | 0xD => some (.drwVxVyN (opX op) (opY op) (opN op))
  | 0xE => decodeGroupE op
  | 0xF => decodeGroupF op
  | _ => none

/-- Word assembly, big-endian (R64, R91): `hi` is the byte at the lower address. -/
def assembleWord (hi lo : Byte) : Word := BitVec.ofNat 16 (hi.toNat * 256 + lo.toNat)

/-- What decoding a string of bytes answers: the instruction and the bytes after it, or a rejection by name. -/
inductive Decoded where
  | instr (i : Instr) (rest : List Byte)
  /-- Fewer than the two bytes of an instruction (R90). -/
  | tooShort
  /-- The word selects no row of the opcode map (R96). -/
  | unknownOpcode (op : Word)
  deriving DecidableEq, Repr

/-- Decode the instruction at the head of a string of bytes; total on any bytes. -/
def decode : List Byte → Decoded
  | hi :: lo :: rest =>
    match decodeWord (assembleWord hi lo) with
    | some i => .instr i rest
    | none => .unknownOpcode (assembleWord hi lo)
  | _ => .tooShort

/-! ## Encode (R92) -/

/-- Format A: `gggg nnnn nnnn nnnn`. -/
def encodeA (group : Nat) (nnn : Word) : Word := BitVec.ofNat 16 (group * 4096 + nnn.toNat)

/-- Format XI: `gggg xxxx kkkk kkkk`. -/
def encodeXI (group : Nat) (x : Reg) (nn : Byte) : Word := BitVec.ofNat 16 (group * 4096 + x.val * 256 + nn.toNat)

/-- Formats XY and XYN: `gggg xxxx yyyy nnnn`; in XY the low digit is a function code. -/
def encodeXYN (group : Nat) (x y : Reg) (n : Nat) : Word :=
  BitVec.ofNat 16 (group * 4096 + x.val * 256 + y.val * 16 + n)

/-- Format XF: `gggg xxxx ffff ffff`. -/
def encodeXF (group : Nat) (x : Reg) (function : Nat) : Word :=
  BitVec.ofNat 16 (group * 4096 + x.val * 256 + function)

/-- The word of a well-formed instruction (R92, with the fixed digits of R95's patterns). -/
def encodeWord : Instr → Word
  | .cls => 0x00E0
  | .ret => 0x00EE
  | .jpNnn nnn => encodeA 0x1 nnn
  | .callNnn nnn => encodeA 0x2 nnn
  | .seVxNn x nn => encodeXI 0x3 x nn
  | .sneVxNn x nn => encodeXI 0x4 x nn
  | .seVxVy x y => encodeXYN 0x5 x y 0x0
  | .ldVxNn x nn => encodeXI 0x6 x nn
  | .addVxNn x nn => encodeXI 0x7 x nn
  | .ldVxVy x y => encodeXYN 0x8 x y 0x0
  | .orVxVy x y => encodeXYN 0x8 x y 0x1
  | .andVxVy x y => encodeXYN 0x8 x y 0x2
  | .xorVxVy x y => encodeXYN 0x8 x y 0x3
  | .addVxVy x y => encodeXYN 0x8 x y 0x4
  | .subVxVy x y => encodeXYN 0x8 x y 0x5
  | .shrVx x y => encodeXYN 0x8 x y 0x6
  | .subnVxVy x y => encodeXYN 0x8 x y 0x7
  | .shlVx x y => encodeXYN 0x8 x y 0xE
  | .sneVxVy x y => encodeXYN 0x9 x y 0x0
  | .ldINnn nnn => encodeA 0xA nnn
  | .jpV0Nnn nnn => encodeA 0xB nnn
  | .rndVxNn x nn => encodeXI 0xC x nn
  | .drwVxVyN x y n => encodeXYN 0xD x y n
  | .skpVx x => encodeXF 0xE x 0x9E
  | .sknpVx x => encodeXF 0xE x 0xA1
  | .ldVxDt x => encodeXF 0xF x 0x07
  | .ldVxK x => encodeXF 0xF x 0x0A
  | .ldDtVx x => encodeXF 0xF x 0x15
  | .ldStVx x => encodeXF 0xF x 0x18
  | .addIVx x => encodeXF 0xF x 0x1E
  | .ldFVx x => encodeXF 0xF x 0x29
  | .ldBVx x => encodeXF 0xF x 0x33
  | .ldMemIVx x => encodeXF 0xF x 0x55
  | .ldVxMemI x => encodeXF 0xF x 0x65

/-- The two bytes of a word as the memory holds them: the high byte at the lower address (R64). -/
def wordBytes (op : Word) : List Byte := [BitVec.ofNat 8 (op.toNat / 256), BitVec.ofNat 8 op.toNat]

/-- The bytes of a well-formed instruction. -/
def encode (i : Instr) : List Byte := wordBytes (encodeWord i)

/-! ## The opcode map (R95) -/

/-- The row's `mnemonic` in spec/opcode_table.json. -/
def Instr.mnemonic : Instr → String
  | .cls => "CLS"
  | .ret => "RET"
  | .jpNnn _ => "JP_NNN"
  | .callNnn _ => "CALL_NNN"
  | .seVxNn _ _ => "SE_VX_NN"
  | .sneVxNn _ _ => "SNE_VX_NN"
  | .seVxVy _ _ => "SE_VX_VY"
  | .ldVxNn _ _ => "LD_VX_NN"
  | .addVxNn _ _ => "ADD_VX_NN"
  | .ldVxVy _ _ => "LD_VX_VY"
  | .orVxVy _ _ => "OR_VX_VY"
  | .andVxVy _ _ => "AND_VX_VY"
  | .xorVxVy _ _ => "XOR_VX_VY"
  | .addVxVy _ _ => "ADD_VX_VY"
  | .subVxVy _ _ => "SUB_VX_VY"
  | .shrVx _ _ => "SHR_VX"
  | .subnVxVy _ _ => "SUBN_VX_VY"
  | .shlVx _ _ => "SHL_VX"
  | .sneVxVy _ _ => "SNE_VX_VY"
  | .ldINnn _ => "LD_I_NNN"
  | .jpV0Nnn _ => "JP_V0_NNN"
  | .rndVxNn _ _ => "RND_VX_NN"
  | .drwVxVyN _ _ _ => "DRW_VX_VY_N"
  | .skpVx _ => "SKP_VX"
  | .sknpVx _ => "SKNP_VX"
  | .ldVxDt _ => "LD_VX_DT"
  | .ldVxK _ => "LD_VX_K"
  | .ldDtVx _ => "LD_DT_VX"
  | .ldStVx _ => "LD_ST_VX"
  | .addIVx _ => "ADD_I_VX"
  | .ldFVx _ => "LD_F_VX"
  | .ldBVx _ => "LD_B_VX"
  | .ldMemIVx _ => "LD_MEMI_VX"
  | .ldVxMemI _ => "LD_VX_MEMI"

/-- One row of R95: `op` selects it when `op &&& mask = pattern`. -/
structure OpcodeRow where
  mnemonic : String
  mask : Word
  pattern : Word
  deriving DecidableEq, Repr

/-- Rows 1 to 9 of R95. -/
def opcodeRowsLow : List OpcodeRow :=
  [⟨"CLS", 0xFFFF, 0x00E0⟩, ⟨"RET", 0xFFFF, 0x00EE⟩, ⟨"JP_NNN", 0xF000, 0x1000⟩, ⟨"CALL_NNN", 0xF000, 0x2000⟩,
   ⟨"SE_VX_NN", 0xF000, 0x3000⟩, ⟨"SNE_VX_NN", 0xF000, 0x4000⟩, ⟨"SE_VX_VY", 0xF00F, 0x5000⟩,
   ⟨"LD_VX_NN", 0xF000, 0x6000⟩, ⟨"ADD_VX_NN", 0xF000, 0x7000⟩]

/-- Rows 10 to 18 of R95: group 8. -/
def opcodeRowsGroup8 : List OpcodeRow :=
  [⟨"LD_VX_VY", 0xF00F, 0x8000⟩, ⟨"OR_VX_VY", 0xF00F, 0x8001⟩, ⟨"AND_VX_VY", 0xF00F, 0x8002⟩,
   ⟨"XOR_VX_VY", 0xF00F, 0x8003⟩, ⟨"ADD_VX_VY", 0xF00F, 0x8004⟩, ⟨"SUB_VX_VY", 0xF00F, 0x8005⟩,
   ⟨"SHR_VX", 0xF00F, 0x8006⟩, ⟨"SUBN_VX_VY", 0xF00F, 0x8007⟩, ⟨"SHL_VX", 0xF00F, 0x800E⟩]

/-- Rows 19 to 25 of R95. -/
def opcodeRowsMid : List OpcodeRow :=
  [⟨"SNE_VX_VY", 0xF00F, 0x9000⟩, ⟨"LD_I_NNN", 0xF000, 0xA000⟩, ⟨"JP_V0_NNN", 0xF000, 0xB000⟩,
   ⟨"RND_VX_NN", 0xF000, 0xC000⟩, ⟨"DRW_VX_VY_N", 0xF000, 0xD000⟩, ⟨"SKP_VX", 0xF0FF, 0xE09E⟩,
   ⟨"SKNP_VX", 0xF0FF, 0xE0A1⟩]

/-- Rows 26 to 34 of R95: group F. -/
def opcodeRowsGroupF : List OpcodeRow :=
  [⟨"LD_VX_DT", 0xF0FF, 0xF007⟩, ⟨"LD_VX_K", 0xF0FF, 0xF00A⟩, ⟨"LD_DT_VX", 0xF0FF, 0xF015⟩,
   ⟨"LD_ST_VX", 0xF0FF, 0xF018⟩, ⟨"ADD_I_VX", 0xF0FF, 0xF01E⟩, ⟨"LD_F_VX", 0xF0FF, 0xF029⟩,
   ⟨"LD_B_VX", 0xF0FF, 0xF033⟩, ⟨"LD_MEMI_VX", 0xF0FF, 0xF055⟩, ⟨"LD_VX_MEMI", 0xF0FF, 0xF065⟩]

/-- The 34 rows of R95 with its masks and matches. The decoder does not use them: they are the map it is held against. -/
def opcodeRows : List OpcodeRow := opcodeRowsLow ++ opcodeRowsGroup8 ++ opcodeRowsMid ++ opcodeRowsGroupF

/-! ## Words of the opcode table -/

/-- The bytes, as the hardware stores them, of the instruction whose bits are the low `nbits` bits of `w` and whose other
bits are 0. The longest instruction is one 16-bit word. -/
def tableBytes (nbits w : Nat) : List Byte := wordBytes (BitVec.ofNat 16 (w % 2 ^ nbits))

/-- The instruction the decoder reads from a row's word, numbered as spec/opcode_table.json numbers it. -/
def decodeTableWord (nbits w : Nat) : Option Instr :=
  match decode (tableBytes nbits w) with
  | .instr i _ => some i
  | .tooShort => none
  | .unknownOpcode _ => none

end Sys2Proof
end

