-- ==== Sys2Proof/Machine/Fetch.lean ====
section
/-! DEFINITION. Fetching and decoding the instruction at `pc` (30_encoding.md R98, steps 1 and 2). -/

namespace Sys2Proof.Machine

/-- `mem[pc] * 256 + mem[pc + 1]` (R64, R91); no alignment rule (R65). -/
def fetchWord (s : State) : Word := assembleWord (s.readByte s.pc.toNat) (s.readByte (s.pc.toNat + 1))

/-- Run `k` on the instruction at `pc`. Fetch bounds come first, then decode (R98, R99; log 17, log 19). -/
def withInstr (s : State) (k : Instr → Result) : Result :=
  withRun s.pc.toNat 2 s
    (match decodeWord (fetchWord s) with
     | some i => k i
     | none => raise (.unknownOpcode (fetchWord s) s.pc))

/-- The state in which the next fetch is the bytes of `op`: they stand at `pc`, or, where no fetch can succeed at `pc`, at the
entry point with `pc` on it (log 22). -/
def placeWord (s : State) (op : Word) : State :=
  let s₁ := if s.pc.toNat ≤ 4094 then s else s.setPc (BitVec.ofNat 16 Config.programBase)
  s₁.writeBytes s₁.pc.toNat (wordBytes op)

end Sys2Proof.Machine
end

