-- ==== Sys2Proof/Machine/Step.lean ====
section
/-! DEFINITION. The STEP transaction on a state (30_encoding.md R98). -/

namespace Sys2Proof.Machine

/-- Fetch, decode, execute, count (R98). -/
def step (s : State) : Host.Outcome State Fault Refusal := withInstr s fun i => complete (exec i s)

/-- `s` with the instruction whose bits are the low `nbits` bits of `w` stored where the next fetch reads it (log 22). -/
def State.withFetchWord (s : State) (nbits w : Nat) : State := placeWord s (BitVec.ofNat 16 (w % 2 ^ nbits))

end Sys2Proof.Machine
end

