-- ==== Sys2Proof/Assembly.lean ====
section
/-! DEFINITION. The spec's notation for programs (30_encoding.md R100, R101): how an instruction is written, and the bytes a
listing stands for. No meaning depends on it. -/

namespace Sys2Proof

/-- One hexadecimal digit. -/
def hexDigit (n : Nat) : String := ["0", "1", "2", "3", "4", "5", "6", "7", "8", "9", "A", "B", "C", "D", "E", "F"].getD n "?"

/-- `0x` and the last `digits` hexadecimal digits of `n`. -/
def hexNumber (digits n : Nat) : String :=
  "0x" ++ String.join ((List.range digits).reverse.map fun k => hexDigit (n / 16 ^ k % 16))

/-- `V0` .. `VF`. -/
def Reg.text (x : Reg) : String := "V" ++ hexDigit x.val

/-- A mnemonic and its operands. -/
def asmLine (mnemonic : String) (operands : List String) : String := mnemonic ++ " " ++ String.intercalate ", " operands

/-- The instruction as R100 writes it (the column "Spec mnemonic" of R95); `SHR` and `SHL` show no `Y`. -/
def Instr.text : Instr → String
  | .cls => "CLS"
  | .ret => "RET"
  | .jpNnn nnn => asmLine "JP" [hexNumber 3 nnn.toNat]
  | .callNnn nnn => asmLine "CALL" [hexNumber 3 nnn.toNat]
  | .seVxNn x nn => asmLine "SE" [x.text, hexNumber 2 nn.toNat]
  | .sneVxNn x nn => asmLine "SNE" [x.text, hexNumber 2 nn.toNat]
  | .seVxVy x y => asmLine "SE" [x.text, y.text]
  | .ldVxNn x nn => asmLine "LD" [x.text, hexNumber 2 nn.toNat]
  | .addVxNn x nn => asmLine "ADD" [x.text, hexNumber 2 nn.toNat]
  | .ldVxVy x y => asmLine "LD" [x.text, y.text]
  | .orVxVy x y => asmLine "OR" [x.text, y.text]
  | .andVxVy x y => asmLine "AND" [x.text, y.text]
  | .xorVxVy x y => asmLine "XOR" [x.text, y.text]
  | .addVxVy x y => asmLine "ADD" [x.text, y.text]
  | .subVxVy x y => asmLine "SUB" [x.text, y.text]
  | .shrVx x _ => asmLine "SHR" [x.text]
  | .subnVxVy x y => asmLine "SUBN" [x.text, y.text]
  | .shlVx x _ => asmLine "SHL" [x.text]
  | .sneVxVy x y => asmLine "SNE" [x.text, y.text]
  | .ldINnn nnn => asmLine "LD" ["I", hexNumber 3 nnn.toNat]
  | .jpV0Nnn nnn => asmLine "JP" ["V0", hexNumber 3 nnn.toNat]
  | .rndVxNn x nn => asmLine "RND" [x.text, hexNumber 2 nn.toNat]
  | .drwVxVyN x y n => asmLine "DRW" [x.text, y.text, hexNumber 1 n]
  | .skpVx x => asmLine "SKP" [x.text]
  | .sknpVx x => asmLine "SKNP" [x.text]
  | .ldVxDt x => asmLine "LD" [x.text, "DT"]
  | .ldVxK x => asmLine "LD" [x.text, "K"]
  | .ldDtVx x => asmLine "LD" ["DT", x.text]
  | .ldStVx x => asmLine "LD" ["ST", x.text]
  | .addIVx x => asmLine "ADD" ["I", x.text]
  | .ldFVx x => asmLine "LD" ["F", x.text]
  | .ldBVx x => asmLine "LD" ["B", x.text]
  | .ldMemIVx x => asmLine "LD" ["[I]", x.text]
  | .ldVxMemI x => asmLine "LD" [x.text, "[I]"]

/-- One line of a listing: an instruction, or a directive of R101. -/
inductive AsmItem where
  | instr (i : Instr)
  /-- `DB b0, b1, ...` -/
  | db (bytes : List Byte)
  /-- `DW w`, big-endian. -/
  | dw (w : Word)
  deriving DecidableEq, Repr

/-- The bytes a line emits. -/
def AsmItem.bytes : AsmItem → List Byte
  | .instr i => encode i
  | .db bytes => bytes
  | .dw w => wordBytes w

/-- The image of a listing, which LOAD places from 0x200 on (R101). -/
def assemble (items : List AsmItem) : List Byte := items.flatMap AsmItem.bytes

end Sys2Proof
end

