-- ==== Sys2Proof/Machine/Transactions.lean ====
section
/-! DEFINITION. The transactions through which the host acts on the CORE (00_scope.md R6), each atomic, in the host's order
(R7). `step` stands for STEP with the free `rand`; `stepWith` is STEP(rand) for a given one. -/

namespace Sys2Proof.Machine

/-- CONSTRUCT (70_reset_and_hazards.md R220) with the parameters of R9. -/
def construct (mode : FX0AMode) (font : Vector Byte 80) : State := { State.reset with fx0aMode := mode, font := font }

/-- A timer one TICK later, floored at 0 (60_exceptions.md R203). -/
def countDown (t : Byte) : Byte := if 0 < t.toNat then t - 1 else 0

/-- TICK (R203): both timers, independently; nothing else. -/
def tick (s : State) : State := (s.setDelay (countDown s.delay)).setSound (countDown s.sound)

/-- KEY_WRITE(k, b) (10_state.md R32). -/
def keyWrite (k : Reg) (b : Bool) (s : State) : State := s.setKey k b

/-- `LoadError` (R190, R196). -/
inductive LoadError where
  /-- Raised by LOAD of more than 3584 bytes. Safe: the spec names this error. -/
  | tooLarge
  deriving DecidableEq, Repr

/-- The first line of LOAD (R221): `mem[0..79] <- FONT`, always. -/
def loadFont (s : State) : State := s.writeBytes 0 s.font.toList

/-- The bookkeeping of a LOAD (R33, R34): `program_size <- len; cycle_count <- 0`. -/
def State.setLoaded (s : State) (len : Fin 3585) : State := { s with programSize := len, cycleCount := 0 }

/-- The rest of a LOAD that succeeds (R221): the image at 0x200, `pc`, `program_size`, `cycle_count`. -/
def loadImage (bytes : List Byte) (len : Fin 3585) (s : State) : State :=
  ((s.writeBytes Config.programBase bytes).setPc (BitVec.ofNat 16 Config.programBase)).setLoaded len

/-- LOAD(bytes) (R221, R222; D19, log 18): the state after it, and the program size or the error. -/
def load (bytes : List Byte) (s : State) : State × Except LoadError Nat :=
  if h : bytes.length ≤ 3584 then
    (loadImage bytes ⟨bytes.length, Nat.lt_succ_of_le h⟩ (loadFont s), .ok bytes.length)
  else (loadFont s, .error .tooLarge)

/-- The effect of one instruction for a given `rand`, which only CXNN consumes (R8). -/
def execWith (rand : Byte) (i : Instr) (s : State) : Result :=
  match i with
  | .rndVxNn x nn => rndWith rand x nn s
  | i => exec i s

/-- STEP(rand) (30_encoding.md R98). -/
def stepWith (rand : Byte) (s : State) : Result := withInstr s fun i => complete (execWith rand i s)

/-- The transactions of R6. -/
inductive Transaction where
  | construct (mode : FX0AMode) (font : Vector Byte 80)
  | load (bytes : List Byte)
  | step (rand : Byte)
  | tick
  | keyWrite (k : Reg) (b : Bool)
  | observe
  deriving DecidableEq, Repr

/-- What a transaction returns to the host. -/
inductive Response where
  /-- CONSTRUCT, TICK and KEY_WRITE return nothing. -/
  | done
  /-- LOAD's `Ok(program size)`. -/
  | loaded (size : Nat)
  /-- LOAD's `Err`. -/
  | loadFailed (e : LoadError)
  /-- STEP's `Ok(cycle_count)`. -/
  | stepped (cycleCount : BitVec 64)
  /-- STEP's `Err` (R199). -/
  | stepFailed (f : Fault)
  /-- Never answered: every instruction has its meaning. -/
  | stepRefused (r : Refusal)
  /-- OBSERVE: every item of R20 may be read (R38). -/
  | observed (s : State)
  deriving DecidableEq, Repr

/-- One transaction: the state after it and what the host gets. A STEP that raises leaves the state as it was (R16, R199). -/
def transact (t : Transaction) (s : State) : State × Response :=
  match t with
  | .construct mode font => (construct mode font, .done)
  | .load bytes =>
    match load bytes s with
    | (s', .ok n) => (s', .loaded n)
    | (s', .error e) => (s', .loadFailed e)
  | .step rand =>
    match stepWith rand s with
    | .next s' => (s', .stepped s'.cycleCount)
    | .fault f => (s, .stepFailed f)
    | .refused r => (s, .stepRefused r)
  | .tick => (tick s, .done)
  | .keyWrite k b => (keyWrite k b s, .done)
  | .observe => (s, .observed s)

/-- A host schedule: transactions in order, each on the state the one before left (R7, R204: any schedule is legal). -/
def transactAll : List Transaction → State → State
  | [], s => s
  | t :: ts, s => transactAll ts (transact t s).1

end Sys2Proof.Machine
end

