-- ==== Sys2Proof/Safety.lean ====
section
/-! DEFINITION. The words the claims are stated in: which errors an instruction may raise, which state it may write, the
invariant of the machine, safe runs and the ends of a run. -/

namespace Sys2Proof.Machine

/-! ## Errors -/

/-- The execution condition of an instruction, at most one each (30_encoding.md R99, 60_exceptions.md R190, R198). -/
def executionFault (i : Instr) (s : State) : Option Fault :=
  match i with
  | .ret => if s.sp.val = 0 then some .stackUnderflow else none
  | .callNnn _ => if s.sp.val = 16 then some .stackOverflow else none
  | .drwVxVyN _ _ n =>
    if 0 < n ∧ 4095 < s.i.toNat + n - 1 then some (.addressOutOfBounds (max s.i.toNat 4096) s.pc) else none
  | .ldBVx _ => if 4095 < s.i.toNat + 2 then some (.addressOutOfBounds (max s.i.toNat 4096) s.pc) else none
  | .ldMemIVx x | .ldVxMemI x =>
    if 4095 < s.i.toNat + x.val then some (.addressOutOfBounds (max s.i.toNat 4096) s.pc) else none
  | .skpVx x | .sknpVx x => if 15 < (s.getV x).toNat then some (.keyIndexOutOfRange (s.getV x) s.pc) else none
  | .cls | .jpNnn _ | .seVxNn _ _ | .sneVxNn _ _ | .seVxVy _ _ | .ldVxNn _ _ | .addVxNn _ _ => none
  | .ldVxVy _ _ | .orVxVy _ _ | .andVxVy _ _ | .xorVxVy _ _ | .addVxVy _ _ | .subVxVy _ _ => none
  | .shrVx _ _ | .subnVxVy _ _ | .shlVx _ _ | .sneVxVy _ _ | .ldINnn _ | .jpV0Nnn _ | .rndVxNn _ _ => none
  | .ldVxDt _ | .ldVxK _ | .ldDtVx _ | .ldStVx _ | .addIVx _ | .ldFVx _ => none

/-! ## Frames -/

/-- The items of R20 (and the model's own fields), as the frames speak of them. -/
inductive Part where
  | v | i | pc | stack | sp | delay | sound | fb | key | mem | cycleCount | programSize | params | draws
  deriving DecidableEq, Repr

/-- The item has the same value in both states; memory is compared by reading every byte. -/
def Part.Same (s t : State) : Part → Prop
  | .v => ∀ j, t.getV j = s.getV j
  | .i => t.i = s.i
  | .pc => t.pc = s.pc
  | .stack => t.stack = s.stack
  | .sp => t.sp = s.sp
  | .delay => t.delay = s.delay
  | .sound => t.sound = s.sound
  | .fb => ∀ px py, t.pixel px py = s.pixel px py
  | .key => ∀ k, t.getKey k = s.getKey k
  | .mem => ∀ a, t.readByte a = s.readByte a
  | .cycleCount => t.cycleCount = s.cycleCount
  | .programSize => t.programSize = s.programSize
  | .params => t.fx0aMode = s.fx0aMode ∧ t.font = s.font
  | .draws => t.draws = s.draws

/-- Nothing but the items of `ps` changed from `s` to `t`. -/
def SameExcept (ps : List Part) (s t : State) : Prop := ∀ p, p ∉ ps → Part.Same s t p

/-- The items an instruction may write: the column "Written by" of R20 and the classes of R25. -/
def writtenParts : Instr → List Part
  | .cls => [.fb, .pc]
  | .ret => [.sp, .pc]
  | .callNnn _ => [.stack, .sp, .pc]
  | .jpNnn _ | .jpV0Nnn _ => [.pc]
  | .seVxNn _ _ | .sneVxNn _ _ | .seVxVy _ _ | .sneVxVy _ _ | .skpVx _ | .sknpVx _ => [.pc]
  | .ldVxNn _ _ | .addVxNn _ _ | .ldVxVy _ _ | .orVxVy _ _ | .andVxVy _ _ | .xorVxVy _ _ => [.v, .pc]
  | .addVxVy _ _ | .subVxVy _ _ | .shrVx _ _ | .subnVxVy _ _ | .shlVx _ _ | .rndVxNn _ _ => [.v, .pc]
  | .ldVxDt _ | .ldVxK _ | .ldVxMemI _ => [.v, .pc]
  | .ldINnn _ | .addIVx _ | .ldFVx _ => [.i, .pc]
  | .drwVxVyN _ _ _ => [.fb, .v, .pc]
  | .ldDtVx _ => [.delay, .pc]
  | .ldStVx _ => [.sound, .pc]
  | .ldBVx _ | .ldMemIVx _ => [.mem, .pc]

/-- The V registers an instruction may write: its destination X, VF for the flag writers, `V0 .. Vx` for FX65 (R21, R22). -/
def writesReg (i : Instr) (j : Reg) : Prop :=
  match i with
  | .ldVxNn x _ | .addVxNn x _ | .rndVxNn x _ => j = x
  | .ldVxVy x _ | .orVxVy x _ | .andVxVy x _ | .xorVxVy x _ => j = x
  | .addVxVy x _ | .subVxVy x _ | .shrVx x _ | .subnVxVy x _ | .shlVx x _ => j = x ∨ j = VF
  | .ldVxDt x | .ldVxK x => j = x
  | .ldVxMemI x => j.val ≤ x.val
  | .drwVxVyN _ _ _ => j = VF
  | .cls | .ret | .jpNnn _ | .callNnn _ | .seVxNn _ _ | .sneVxNn _ _ | .seVxVy _ _ | .sneVxVy _ _ => False
  | .ldINnn _ | .jpV0Nnn _ | .skpVx _ | .sknpVx _ | .ldDtVx _ | .ldStVx _ => False
  | .addIVx _ | .ldFVx _ | .ldBVx _ | .ldMemIVx _ => False

/-- The addresses an instruction stores to: `I .. I + 2` for FX33, `I .. I + X` for FX55, none for any other (R66, R67). -/
def storesTo (i : Instr) (s : State) (a : Nat) : Prop :=
  match i with
  | .ldBVx _ => ∃ k, k < 3 ∧ a = indexAddr s k
  | .ldMemIVx x => ∃ k, k ≤ x.val ∧ a = indexAddr s k
  | .cls | .ret | .jpNnn _ | .callNnn _ | .seVxNn _ _ | .sneVxNn _ _ | .seVxVy _ _ | .sneVxVy _ _ => False
  | .ldVxNn _ _ | .addVxNn _ _ | .ldVxVy _ _ | .orVxVy _ _ | .andVxVy _ _ | .xorVxVy _ _ => False
  | .addVxVy _ _ | .subVxVy _ _ | .shrVx _ _ | .subnVxVy _ _ | .shlVx _ _ | .rndVxNn _ _ => False
  | .ldINnn _ | .jpV0Nnn _ | .drwVxVyN _ _ _ | .skpVx _ | .sknpVx _ | .ldVxDt _ | .ldVxK _ => False
  | .ldDtVx _ | .ldStVx _ | .addIVx _ | .ldFVx _ | .ldVxMemI _ => False

/-! ## The invariant -/

/-- What every step and every transaction keeps: memory in its canonical form, stack entries at most 4096 (R27), `pc` at most
4350 (R26). The other bounds of the state (`sp` at most 16, `program_size` at most 3584, the widths) stand in its types. -/
structure State.Inv (s : State) : Prop where
  memory : s.mem.wf s.font = true
  stackEntries : ∀ j : Fin 16, (s.stack[j]).toNat ≤ 4096
  pcBound : s.pc.toNat ≤ 4350

/-! ## What a program can see (R27, R37) -/

/-- The two states differ at most in what no program can read: `sound`, `program_size`, `cycle_count` and the dead stack
entries. -/
structure SameForPrograms (s t : State) : Prop where
  v : ∀ j, t.getV j = s.getV j
  i : t.i = s.i
  pc : t.pc = s.pc
  sp : t.sp = s.sp
  live : ∀ j : Fin 16, j.val < s.sp.val → t.stack[j] = s.stack[j]
  delay : t.delay = s.delay
  fb : ∀ px py, t.pixel px py = s.pixel px py
  key : ∀ k, t.getKey k = s.getKey k
  mem : ∀ a, t.readByte a = s.readByte a
  mode : t.fx0aMode = s.fx0aMode
  font : t.font = s.font
  draws : t.draws = s.draws

/-- Two results are the same to a program: the same error, or next states that are. -/
def ResultSameForPrograms : Result → Result → Prop
  | .next s, .next t => SameForPrograms s t
  | .fault f, .fault g => f = g
  | .refused q, .refused r => q = r
  | .next _, .fault _ | .next _, .refused _ | .fault _, .next _ => False
  | .fault _, .refused _ | .refused _, .next _ | .refused _, .fault _ => False

/-! ## Runs -/

/-- A run from `s` that ends at the last state, through any transactions but CONSTRUCT, whose call depth never falls below
`d`: "2NNN followed eventually by 00EE". -/
inductive RunAbove (d : Nat) : State → State → Prop where
  | here (s : State) (h : d ≤ s.sp.val) : RunAbove d s s
  | more {s t : State} (h : RunAbove d s t) (x : Transaction) (hx : ∀ m f, x ≠ .construct m f)
      (hd : d ≤ (transact x t).1.sp.val) : RunAbove d s (transact x t).1

/-- The transactions that cannot end a fault (60_exceptions.md R201): all but CONSTRUCT and LOAD. -/
def Transaction.keepsProgram : Transaction → Bool
  | .construct _ _ | .load _ => false
  | .step _ | .tick | .keyWrite _ _ | .observe => true

/-- A run of `2NNN` effects, one a target, each on the state the one before left. -/
def callAll : List Word → State → Result
  | [], s => .next s
  | nnn :: ts, s =>
    match exec (.callNnn nnn) s with
    | .next t => callAll ts t
    | .fault f => .fault f
    | .refused r => .refused r

/-- A safe run: `k` steps from `s` raise no error. -/
def SafeRun (k : Nat) (s : State) : Prop := ∃ t, Host.Core.run Sys2Proof.core k s = .next t

/-! ## Ends of a run (70_reset_and_hazards.md R225; D28, log 25) -/

/-- (a) The STEP at this state raises. -/
def AtFault (s : State) : Prop := ∃ f, step s = .fault f

/-- (b) The instruction at `pc` is a jump to itself. -/
def AtSelfJump (s : State) : Prop := s.pc.toNat ≤ 4094 ∧ decodeWord (fetchWord s) = some (.jpNnn s.pc)

/-- (c) The instruction at `pc` is an FX0A and no key is down. -/
def AtIdlePoll (s : State) : Prop :=
  s.pc.toNat ≤ 4094 ∧ (∃ x, decodeWord (fetchWord s) = some (.ldVxK x)) ∧ ∀ k, s.getKey k = false

end Sys2Proof.Machine
end

