-- ==== Sys2Proof/Certificates/Slice0/Obligations.lean ====
section
/-! DEFINITION. The statements for the provers, from the numbered rules of spec/. Each completion names the whole next state:
what the instruction writes, and that nothing else changed. -/

namespace Sys2Proof.Machine

/-! ## Words the statements share -/

/-- The 16-bit word `w` is the encoding of `i`. -/
def WordDecodesTo (w : Nat) (i : Instr) : Prop := decodeWord (BitVec.ofNat 16 w) = some i

/-- `pc <- (pc + 2) mod 65536`. -/
def PcAdvances (s t : State) : Prop := t.pc.toNat = (s.pc.toNat + 2) % 65536

/-- The instruction completes as a skip on `c`: `pc` moves by 4 or by 2 and nothing else changes. -/
def CompletesAsSkip (i : Instr) (s : State) (c : Prop) : Prop :=
  ∃ t, exec i s = .next t ∧ (c → t.pc.toNat = (s.pc.toNat + 4) % 65536) ∧
    (¬ c → t.pc.toNat = (s.pc.toNat + 2) % 65536) ∧ SameExcept [.pc] s t

/-- The instruction completes in place, with `V[x]` as `p` says and nothing else changed but `pc`. -/
def CompletesWritingV (i : Instr) (s : State) (x : Reg) (p : Byte → Prop) : Prop :=
  ∃ t, exec i s = .next t ∧ p (t.getV x) ∧ (∀ j, j ≠ x → t.getV j = s.getV j) ∧ PcAdvances s t ∧ SameExcept [.v, .pc] s t

/-- The instruction completes in place, with `V[x]` and VF as `p` and `q` say and no other register changed. -/
def CompletesWritingVAndFlag (i : Instr) (s : State) (x : Reg) (p q : Nat → Prop) : Prop :=
  ∃ t, exec i s = .next t ∧ p (t.getV x).toNat ∧ q (t.getV VF).toNat ∧
    (∀ j, j ≠ x → j ≠ VF → t.getV j = s.getV j) ∧ PcAdvances s t ∧ SameExcept [.v, .pc] s t

/-- The sprite of DXYN sets a 1 bit at pixel `(px, py)` (R171: bit `7 - col` of the byte at `I + row`, at
`((Vx + col) mod 64, (Vy + row) mod 32)`). -/
def SpriteCovers (s : State) (x y : Reg) (n : Nat) (px : Fin 64) (py : Fin 32) : Prop :=
  ∃ row col, row < n ∧ col < 8 ∧ px.val = ((s.getV x).toNat + col) % 64 ∧ py.val = ((s.getV y).toNat + row) % 32 ∧
    (s.readByte (indexAddr s row)).getLsbD (7 - col) = true

end Sys2Proof.Machine

open Sys2Proof Sys2Proof.Machine

/-! ## Encoding -/

/-- Decoding the bytes of a well-formed instruction gives it back, with the bytes after it (R91, R92, R93, R95). -/
def Obligations.DecodeOfEncodeIsIdentity : Prop :=
  ∀ (i : Instr) (rest : List Byte), i.wellFormed = true → decode (encode i ++ rest) = .instr i rest

/-- A word that decodes is the word of the instruction it decodes to, which is well formed. So each instruction has one word,
because every fixed digit of a pattern must match: the spec's decision D14 (R94; log 15). -/
def Obligations.EncodeOfDecodeIsTheWord : Prop :=
  ∀ (op : Word) (i : Instr), decodeWord op = some i → i.wellFormed = true ∧ encodeWord i = op

/-- The decoder selects a row of R95 exactly when the row's mask and match select it. That the match is exact is the spec's
decision D14 (R94; log 15). -/
def Obligations.DecoderSelectsRowsByMaskAndMatch : Prop :=
  ∀ (op : Word) (r : OpcodeRow), r ∈ opcodeRows →
    (op &&& r.mask = r.pattern ↔ ∃ i, decodeWord op = some i ∧ i.mnemonic = r.mnemonic)

/-- The words that decode to nothing are those of R96's table. Groups 0, 8, 9, E and F rest on the spec's decision D14 (log 15). -/
def Obligations.UnknownWordsAreThoseOfTheTable : Prop :=
  ∀ op : Word, decodeWord op = none ↔
    (op.toNat / 4096 = 0x0 ∧ op.toNat ≠ 0x00E0 ∧ op.toNat ≠ 0x00EE) ∨
    (op.toNat / 4096 = 0x5 ∧ op.toNat % 16 ≠ 0) ∨
    (op.toNat / 4096 = 0x8 ∧ op.toNat % 16 ∈ [0x8, 0x9, 0xA, 0xB, 0xC, 0xD, 0xF]) ∨
    (op.toNat / 4096 = 0x9 ∧ op.toNat % 16 ≠ 0) ∨
    (op.toNat / 4096 = 0xE ∧ op.toNat % 256 ∉ [0x9E, 0xA1]) ∨
    (op.toNat / 4096 = 0xF ∧ op.toNat % 256 ∉ [0x07, 0x0A, 0x15, 0x18, 0x1E, 0x29, 0x33, 0x55, 0x65])

/-- Words of the spec's examples decode to the instructions they stand for. -/
def Obligations.SampleWordsDecode : Prop :=
  WordDecodesTo 0x00E0 .cls ∧ WordDecodesTo 0x1ABC (.jpNnn 0xABC) ∧ WordDecodesTo 0x3A12 (.seVxNn 0xA 0x12) ∧
  WordDecodesTo 0x8124 (.addVxVy 1 2) ∧ WordDecodesTo 0xA123 (.ldINnn 0x123) ∧ WordDecodesTo 0xD012 (.drwVxVyN 0 1 2) ∧
  WordDecodesTo 0xF20A (.ldVxK 2) ∧ decodeWord 0x5001 = none

/-! ## The STEP -/

/-- When the bytes at `pc` decode to `i`, the STEP is `exec i` with one completed STEP counted: `cycle_count` moves on (and
the model's index of free values, log 6), and an error is returned as it is (R98; fetch bound D16, log 17; counting log 27;
the count past 2^64 - 1 is free: D18, log 7). -/
def Obligations.StepRunsTheDecodedInstruction : Prop :=
  ∀ (s : State) (i : Instr), s.pc.toNat ≤ 4094 →
    decode [s.readByte s.pc.toNat, s.readByte (s.pc.toNat + 1)] = .instr i [] →
    (∀ t, exec i s = .next t →
      step s = .next { t with cycleCount := nextCycleCount t.cycleCount t.draws, draws := t.draws + 1 }) ∧
    (∀ f, exec i s = .fault f → step s = .fault f)

/-- A word that selects no row is reported as UnknownOpcode with the word and its address (R191). -/
def Obligations.UnknownWordIsReported : Prop :=
  ∀ s : State, s.pc.toNat ≤ 4094 →
    decode [s.readByte s.pc.toNat, s.readByte (s.pc.toNat + 1)] =
      .unknownOpcode (assembleWord (s.readByte s.pc.toNat) (s.readByte (s.pc.toNat + 1))) →
    ∃ op : Word, op.toNat = (s.readByte s.pc.toNat).toNat * 256 + (s.readByte (s.pc.toNat + 1)).toNat ∧
      step s = .fault (.unknownOpcode op s.pc)

/-- A fetch above 4094 raises AddressOutOfBounds before anything is decoded (R98, R99; the spec's decision D16, log 17). -/
def Obligations.FetchOutsideMemoryFaults : Prop :=
  ∀ s : State, 4094 < s.pc.toNat →
    (s.pc.toNat = 4095 → step s = .fault (.addressOutOfBounds 4096 s.pc)) ∧
    (4096 ≤ s.pc.toNat → step s = .fault (.addressOutOfBounds s.pc.toNat s.pc))

/-- A STEP that returns Ok returns the new `cycle_count`, one more than before, below 2^64 - 1 (R33, R98; the end of the range
is D18, log 7; that a failed poll counts is D10, log 13). -/
def Obligations.CompletedStepsCountOne : Prop :=
  ∀ (s t : State) (rand : Byte) (c : BitVec 64), transact (.step rand) s = (t, .stepped c) →
    s.cycleCount.toNat < 2 ^ 64 - 1 → c = t.cycleCount ∧ c.toNat = s.cycleCount.toNat + 1

/-- `rand` is consumed by CXNN alone: any other STEP answers the same for every `rand` (R8). -/
def Obligations.RandIsConsumedByRndAlone : Prop :=
  ∀ (s : State) (r r' : Byte), (∀ x nn, decodeWord (fetchWord s) ≠ some (.rndVxNn x nn)) → stepWith r s = stepWith r' s

/-- A word stored by `withFetchWord` is the instruction the next step runs; where a fetch is possible at `pc`, only the two
bytes at `pc` change (the model's choice, log 22). -/
def Obligations.PlacedWordRunsNext : Prop :=
  ∀ (s : State) (op : Word) (i : Instr), s.mem.wf s.font = true → decodeWord op = some i →
    step (s.withFetchWord 16 op.toNat) = complete (exec i (s.withFetchWord 16 op.toNat)) ∧
    (s.pc.toNat ≤ 4094 → SameExcept [.mem] s (s.withFetchWord 16 op.toNat) ∧
      ∀ a, a ≠ s.pc.toNat → a ≠ s.pc.toNat + 1 → (s.withFetchWord 16 op.toNat).readByte a = s.readByte a)

/-- The word that an FX55 with X at least 1 stores on the next instruction (`I = pc + 2`) is what the next STEP fetches (R72).
That a store is seen by the next fetch is the spec's decision D29 (R69, from which R72 is derived; log 23). -/
def Obligations.StoreIsSeenByTheNextFetch : Prop :=
  ∀ (s t : State) (x : Reg), s.mem.wf s.font = true → 1 ≤ x.val → s.i = s.pc + 2 → exec (.ldMemIVx x) s = .next t →
    (fetchWord t).toNat = (s.getV 0).toNat * 256 + (s.getV 1).toNat

/-! ## Control transfer -/

/-- 1NNN sets `pc` to NNN and BNNN sets it to V0 + NNN, with no 2 added (R121, R123). -/
def Obligations.JumpsSetPcDirectly : Prop :=
  ∀ (s : State) (nnn : Word), nnn.toNat < 4096 →
    WordDecodesTo (0x1000 + nnn.toNat) (.jpNnn nnn) ∧ WordDecodesTo (0xB000 + nnn.toNat) (.jpV0Nnn nnn) ∧
    (∃ t, exec (.jpNnn nnn) s = .next t ∧ t.pc.toNat = nnn.toNat ∧ SameExcept [.pc] s t) ∧
    (∃ t, exec (.jpV0Nnn nnn) s = .next t ∧ t.pc.toNat = (s.getV V0).toNat + nnn.toNat ∧ SameExcept [.pc] s t)

/-- 2NNN pushes `pc + 2` and jumps, or raises StackOverflow (R122; where the entry goes is the spec's decision D15, log 16). -/
def Obligations.CallPushesTheReturnAddress : Prop :=
  ∀ (s : State) (nnn : Word), nnn.toNat < 4096 →
    WordDecodesTo (0x2000 + nnn.toNat) (.callNnn nnn) ∧
    (∀ h : s.sp.val < 16, ∃ t, exec (.callNnn nnn) s = .next t ∧ t.pc = nnn ∧ t.sp.val = s.sp.val + 1 ∧
      (t.stack[s.sp.val]).toNat = (s.pc.toNat + 2) % 65536 ∧
      (∀ j : Fin 16, j.val ≠ s.sp.val → t.stack[j] = s.stack[j]) ∧ SameExcept [.stack, .sp, .pc] s t) ∧
    (s.sp.val = 16 → exec (.callNnn nnn) s = .fault .stackOverflow)

/-- 00EE, and no other word (D14, log 15), pops into `pc` with no 2 added, or raises StackUnderflow (R120; which entry it reads
is the spec's decision D15, log 16). -/
def Obligations.ReturnPopsIntoPc : Prop :=
  ∀ s : State, (∀ op, decodeWord op = some .ret ↔ op.toNat = 0x00EE) ∧
    (∀ h : 0 < s.sp.val, ∃ t, exec .ret s = .next t ∧ t.pc = s.stack[s.sp.val - 1] ∧ t.sp.val = s.sp.val - 1 ∧
      SameExcept [.sp, .pc] s t) ∧
    (s.sp.val = 0 → exec .ret s = .fault .stackUnderflow)

/-- StackOverflow is raised by 2NNN exactly when `sp = 16`, so that 17 consecutive calls from an empty stack fail on the 17th (R192). -/
def Obligations.SeventeenthCallOverflows : Prop :=
  (∀ (s : State) (nnn : Word), exec (.callNnn nnn) s = .fault .stackOverflow ↔ s.sp.val = 16) ∧
  (∀ (s : State) (targets : List Word), s.sp.val = 0 → targets.length = 16 →
    ∃ t, callAll targets s = .next t ∧ t.sp.val = 16 ∧ ∀ nnn, exec (.callNnn nnn) t = .fault .stackOverflow)

/-- StackUnderflow is raised by 00EE exactly when `sp = 0` (R193). Otherwise 00EE completes with `sp` one lower (R120, R27's Pop):
that `sp` counts the live entries and a pop lowers it by one is the spec's decision D15 (log 16). -/
def Obligations.ReturnFromNowhereUnderflows : Prop :=
  ∀ s : State, (exec .ret s = .fault .stackUnderflow ↔ s.sp.val = 0) ∧
    (s.sp.val ≠ 0 → ∃ t, exec .ret s = .next t ∧ t.sp.val + 1 = s.sp.val)

/-- "`2NNN` followed eventually by `00EE` restores PC to exactly `call_site + 2`": whatever STEPs, TICKs, KEY_WRITEs, LOADs and
OBSERVEs come between, as long as the call depth does not fall below the call's own (R24, R27, R120). -/
def Obligations.SubroutineRoundTrip : Prop :=
  ∀ (s t u : State) (nnn : Word), exec (.callNnn nnn) s = .next t → RunAbove t.sp.val t u → u.sp = t.sp →
    ∃ w, exec .ret u = .next w ∧ w.pc = s.pc + 2 ∧ w.sp = s.sp ∧ ∀ j : Fin 16, j.val < s.sp.val → w.stack[j] = s.stack[j]

/-! ## Skips -/

/-- 3XNN, 4XNN and 5XY0 skip on their condition; 5XYn with n not 0 is unknown (R130, R131, R132). -/
def Obligations.RegisterSkips : Prop :=
  ∀ (s : State) (x y : Reg) (nn : Byte),
    WordDecodesTo (0x3000 + x.val * 256 + nn.toNat) (.seVxNn x nn) ∧
    WordDecodesTo (0x4000 + x.val * 256 + nn.toNat) (.sneVxNn x nn) ∧
    WordDecodesTo (0x5000 + x.val * 256 + y.val * 16) (.seVxVy x y) ∧
    (∀ n, 0 < n → n < 16 → decodeWord (BitVec.ofNat 16 (0x5000 + x.val * 256 + y.val * 16 + n)) = none) ∧
    CompletesAsSkip (.seVxNn x nn) s ((s.getV x).toNat = nn.toNat) ∧
    CompletesAsSkip (.sneVxNn x nn) s ((s.getV x).toNat ≠ nn.toNat) ∧
    CompletesAsSkip (.seVxVy x y) s ((s.getV x).toNat = (s.getV y).toNat)

/-- 9XY0 skips when the registers differ (R133); that 9XYn with n not 0 is unknown is the spec's decision D14 (log 15). -/
def Obligations.RegisterInequalitySkip : Prop :=
  ∀ (s : State) (x y : Reg),
    WordDecodesTo (0x9000 + x.val * 256 + y.val * 16) (.sneVxVy x y) ∧
    (∀ n, 0 < n → n < 16 → decodeWord (BitVec.ofNat 16 (0x9000 + x.val * 256 + y.val * 16 + n)) = none) ∧
    CompletesAsSkip (.sneVxVy x y) s ((s.getV x).toNat ≠ (s.getV y).toNat)

/-- EX9E and EXA1 test the key that the value of `V[X]` names; above 15 they raise KeyIndexOutOfRange, which is the spec's
decision D5 (log 9) (R134, R135). -/
def Obligations.KeySkips : Prop :=
  ∀ (s : State) (x : Reg),
    WordDecodesTo (0xE09E + x.val * 256) (.skpVx x) ∧ WordDecodesTo (0xE0A1 + x.val * 256) (.sknpVx x) ∧
    (∀ k : Reg, (s.getV x).toNat = k.val →
      CompletesAsSkip (.skpVx x) s (s.getKey k = true) ∧ CompletesAsSkip (.sknpVx x) s (s.getKey k = false)) ∧
    (15 < (s.getV x).toNat → exec (.skpVx x) s = .fault (.keyIndexOutOfRange (s.getV x) s.pc) ∧
      exec (.sknpVx x) s = .fault (.keyIndexOutOfRange (s.getV x) s.pc))

/-! ## Register load and ALU -/

/-- 6XNN and 8XY0 to 8XY3 write `V[X]` and no flag (R140, R142 to R145). -/
def Obligations.LoadsAndLogicWriteOneRegister : Prop :=
  ∀ (s : State) (x y : Reg) (nn : Byte),
    WordDecodesTo (0x6000 + x.val * 256 + nn.toNat) (.ldVxNn x nn) ∧
    WordDecodesTo (0x8000 + x.val * 256 + y.val * 16) (.ldVxVy x y) ∧
    WordDecodesTo (0x8001 + x.val * 256 + y.val * 16) (.orVxVy x y) ∧
    WordDecodesTo (0x8002 + x.val * 256 + y.val * 16) (.andVxVy x y) ∧
    WordDecodesTo (0x8003 + x.val * 256 + y.val * 16) (.xorVxVy x y) ∧
    CompletesWritingV (.ldVxNn x nn) s x (fun r => r = nn) ∧
    CompletesWritingV (.ldVxVy x y) s x (fun r => r = s.getV y) ∧
    CompletesWritingV (.orVxVy x y) s x (fun r => ∀ b < 8, r.getLsbD b = ((s.getV x).getLsbD b || (s.getV y).getLsbD b)) ∧
    CompletesWritingV (.andVxVy x y) s x (fun r => ∀ b < 8, r.getLsbD b = ((s.getV x).getLsbD b && (s.getV y).getLsbD b)) ∧
    CompletesWritingV (.xorVxVy x y) s x (fun r => ∀ b < 8, r.getLsbD b = ((s.getV x).getLsbD b ^^ (s.getV y).getLsbD b))

/-- 7XNN adds modulo 256 and writes no flag (R141). -/
def Obligations.AddImmediateWrapsWithoutFlag : Prop :=
  ∀ (s : State) (x : Reg) (nn : Byte),
    WordDecodesTo (0x7000 + x.val * 256 + nn.toNat) (.addVxNn x nn) ∧
    CompletesWritingV (.addVxNn x nn) s x (fun r => r.toNat = ((s.getV x).toNat + nn.toNat) % 256)

/-- 8XY4: the sum modulo 256 in `V[X]`, then the carry in VF, so that with `X = 15` the carry stands (R146, R152; the order
is the spec's decision D7, log 11). -/
def Obligations.AddWritesSumThenCarry : Prop :=
  ∀ (s : State) (x y : Reg), WordDecodesTo (0x8004 + x.val * 256 + y.val * 16) (.addVxVy x y) ∧
    CompletesWritingVAndFlag (.addVxVy x y) s x
      (fun r => x ≠ VF → r = ((s.getV x).toNat + (s.getV y).toNat) % 256)
      (fun f => f = if 255 < (s.getV x).toNat + (s.getV y).toNat then 1 else 0)

/-- 8XY5: the no-borrow flag in VF, then the difference of the registers as they are after that write (R147, R152; the order
is the spec's decision D7, log 11). -/
def Obligations.SubtractWritesFlagThenDifference : Prop :=
  ∀ (s : State) (x y : Reg), WordDecodesTo (0x8005 + x.val * 256 + y.val * 16) (.subVxVy x y) ∧
    ∀ f, f = (if (s.getV y).toNat < (s.getV x).toNat then 1 else 0) →
      (x ≠ VF → y ≠ VF → CompletesWritingVAndFlag (.subVxVy x y) s x
        (fun r => r = ((s.getV x).toNat + 256 - (s.getV y).toNat) % 256) (fun q => q = f)) ∧
      (x = VF → y ≠ VF → CompletesWritingVAndFlag (.subVxVy x y) s x
        (fun r => r = (f + 256 - (s.getV y).toNat) % 256) (fun _ => True)) ∧
      (x ≠ VF → y = VF → CompletesWritingVAndFlag (.subVxVy x y) s x
        (fun r => r = ((s.getV x).toNat + 256 - f) % 256) (fun q => q = f)) ∧
      (x = VF → y = VF → CompletesWritingVAndFlag (.subVxVy x y) s x (fun r => r = 0) (fun _ => True))

/-- 8XY7: as 8XY5 with the operands exchanged (R149, R152; the order is the spec's decision D7, log 11). -/
def Obligations.ReverseSubtractWritesFlagThenDifference : Prop :=
  ∀ (s : State) (x y : Reg), WordDecodesTo (0x8007 + x.val * 256 + y.val * 16) (.subnVxVy x y) ∧
    ∀ f, f = (if (s.getV x).toNat < (s.getV y).toNat then 1 else 0) →
      (x ≠ VF → y ≠ VF → CompletesWritingVAndFlag (.subnVxVy x y) s x
        (fun r => r = ((s.getV y).toNat + 256 - (s.getV x).toNat) % 256) (fun q => q = f)) ∧
      (x = VF → y ≠ VF → CompletesWritingVAndFlag (.subnVxVy x y) s x
        (fun r => r = ((s.getV y).toNat + 256 - f) % 256) (fun _ => True)) ∧
      (x ≠ VF → y = VF → CompletesWritingVAndFlag (.subnVxVy x y) s x
        (fun r => r = (f + 256 - (s.getV x).toNat) % 256) (fun q => q = f)) ∧
      (x = VF → y = VF → CompletesWritingVAndFlag (.subnVxVy x y) s x (fun r => r = 0) (fun _ => True))

/-- 8XY6 and 8XYE shift `V[X]` by one, whatever `Y` is; the dropped bit goes to VF first (R148, R150, R152; the order is the
spec's decision D7, log 11). -/
def Obligations.ShiftsDropABitIntoTheFlag : Prop :=
  ∀ (s : State) (x y : Reg),
    WordDecodesTo (0x8006 + x.val * 256 + y.val * 16) (.shrVx x y) ∧
    WordDecodesTo (0x800E + x.val * 256 + y.val * 16) (.shlVx x y) ∧
    (x ≠ VF → CompletesWritingVAndFlag (.shrVx x y) s x
        (fun r => r = (s.getV x).toNat / 2) (fun f => f = (s.getV x).toNat % 2) ∧
      CompletesWritingVAndFlag (.shlVx x y) s x
        (fun r => r = (s.getV x).toNat * 2 % 256) (fun f => f = (s.getV x).toNat / 128)) ∧
    (x = VF → CompletesWritingVAndFlag (.shrVx x y) s x (fun r => r = 0) (fun _ => True) ∧
      CompletesWritingVAndFlag (.shlVx x y) s x (fun r => r = (s.getV x).toNat / 128 * 2) (fun _ => True))

/-- CXNN writes `rand & NN`, for every `rand` (R151; that `rand` is free is R8 and the spec's decision D17, log 6); the
STEP's own `rand` is a free value. -/
def Obligations.RandomIsMaskedDraw : Prop :=
  ∀ (s : State) (x : Reg) (nn : Byte), WordDecodesTo (0xC000 + x.val * 256 + nn.toNat) (.rndVxNn x nn) ∧
    CompletesWritingV (.rndVxNn x nn) s x (fun r => r &&& ~~~nn = 0) ∧
    ∀ rand : Byte, ∃ t, execWith rand (.rndVxNn x nn) s = .next t ∧
      (∀ b < 8, (t.getV x).getLsbD b = (rand.getLsbD b && nn.getLsbD b)) ∧ (∀ j, j ≠ x → t.getV j = s.getV j) ∧
      PcAdvances s t ∧ SameExcept [.v, .pc] s t

/-! ## Index and memory -/

/-- ANNN (R160). -/
def Obligations.LoadIndexImmediate : Prop :=
  ∀ (s : State) (nnn : Word), nnn.toNat < 4096 → WordDecodesTo (0xA000 + nnn.toNat) (.ldINnn nnn) ∧
    ∃ t, exec (.ldINnn nnn) s = .next t ∧ t.i.toNat = nnn.toNat ∧ PcAdvances s t ∧ SameExcept [.i, .pc] s t

/-- FX1E adds modulo 65536 with no flag, FX29 multiplies by 5 with no mask (R161, R162; the spec's decisions D11 and D12, log 14). -/
def Obligations.IndexArithmetic : Prop :=
  ∀ (s : State) (x : Reg), WordDecodesTo (0xF01E + x.val * 256) (.addIVx x) ∧ WordDecodesTo (0xF029 + x.val * 256) (.ldFVx x) ∧
    (∃ t, exec (.addIVx x) s = .next t ∧ t.i.toNat = (s.i.toNat + (s.getV x).toNat) % 65536 ∧ PcAdvances s t ∧
      SameExcept [.i, .pc] s t) ∧
    (∃ t, exec (.ldFVx x) s = .next t ∧ t.i.toNat = (s.getV x).toNat * 5 ∧ PcAdvances s t ∧ SameExcept [.i, .pc] s t)

/-- FX33 stores three digits at `I .. I + 2`, or raises before it writes (R163, R74; the error is the spec's decision D4,
log 8, and that `I` stays is D13, log 14). -/
def Obligations.BcdStoresThreeDigits : Prop :=
  ∀ (s : State) (x : Reg), s.mem.wf s.font = true → WordDecodesTo (0xF033 + x.val * 256) (.ldBVx x) ∧
    (s.i.toNat + 2 ≤ 4095 → ∃ t, exec (.ldBVx x) s = .next t ∧
      (t.readByte (indexAddr s 0)).toNat = (s.getV x).toNat / 100 ∧
      (t.readByte (indexAddr s 1)).toNat = (s.getV x).toNat / 10 % 10 ∧
      (t.readByte (indexAddr s 2)).toNat = (s.getV x).toNat % 10 ∧
      (∀ a, a ≠ indexAddr s 0 → a ≠ indexAddr s 1 → a ≠ indexAddr s 2 → t.readByte a = s.readByte a) ∧
      PcAdvances s t ∧ SameExcept [.mem, .pc] s t) ∧
    (4095 < s.i.toNat + 2 → exec (.ldBVx x) s = .fault (.addressOutOfBounds (max s.i.toNat 4096) s.pc))

/-- FX55 stores `V0 .. Vx` at `I .. I + X`, or raises before it writes (R164, R74; D4, log 8; D13, log 14). -/
def Obligations.RegisterStoreFillsARun : Prop :=
  ∀ (s : State) (x : Reg), s.mem.wf s.font = true → WordDecodesTo (0xF055 + x.val * 256) (.ldMemIVx x) ∧
    (s.i.toNat + x.val ≤ 4095 → ∃ t, exec (.ldMemIVx x) s = .next t ∧
      (∀ j : Reg, j.val ≤ x.val → t.readByte (indexAddr s j.val) = s.getV j) ∧
      (∀ a, (∀ j : Reg, j.val ≤ x.val → a ≠ indexAddr s j.val) → t.readByte a = s.readByte a) ∧
      PcAdvances s t ∧ SameExcept [.mem, .pc] s t) ∧
    (4095 < s.i.toNat + x.val → exec (.ldMemIVx x) s = .fault (.addressOutOfBounds (max s.i.toNat 4096) s.pc))

/-- FX65 loads `V0 .. Vx` from `I .. I + X`, or raises before it writes (R165, R74; D4, log 8; D13, log 14). -/
def Obligations.RegisterLoadReadsARun : Prop :=
  ∀ (s : State) (x : Reg), WordDecodesTo (0xF065 + x.val * 256) (.ldVxMemI x) ∧
    (s.i.toNat + x.val ≤ 4095 → ∃ t, exec (.ldVxMemI x) s = .next t ∧
      (∀ j : Reg, j.val ≤ x.val → t.getV j = s.readByte (indexAddr s j.val)) ∧
      (∀ j : Reg, x.val < j.val → t.getV j = s.getV j) ∧ PcAdvances s t ∧ SameExcept [.v, .pc] s t) ∧
    (4095 < s.i.toNat + x.val → exec (.ldVxMemI x) s = .fault (.addressOutOfBounds (max s.i.toNat 4096) s.pc))

/-! ## Framebuffer -/

/-- 00E0, and no other word (the spec's decision D14, log 15), turns every pixel off (R170). -/
def Obligations.ClearTurnsEveryPixelOff : Prop :=
  ∀ s : State, (∀ op, decodeWord op = some .cls ↔ op.toNat = 0x00E0) ∧
    ∃ t, exec .cls s = .next t ∧ (∀ px py, t.pixel px py = false) ∧ PcAdvances s t ∧ SameExcept [.fb, .pc] s t

/-- DXYN toggles exactly the pixels the sprite covers, VF tells whether one of them was on, and nothing else changes (R171,
R172; sampling, `N = 0` and `X` or `Y = 15` are the spec's decision D8, log 12). -/
def Obligations.DrawTogglesTheSpritePixels : Prop :=
  ∀ (s : State) (x y : Reg) (n : Nat), n < 16 → WordDecodesTo (0xD000 + x.val * 256 + y.val * 16 + n) (.drwVxVyN x y n) ∧
    (n = 0 ∨ s.i.toNat + n - 1 ≤ 4095 → ∃ t, exec (.drwVxVyN x y n) s = .next t ∧
      (∀ px py, (SpriteCovers s x y n px py → t.pixel px py = !s.pixel px py) ∧
        (¬ SpriteCovers s x y n px py → t.pixel px py = s.pixel px py)) ∧
      ((∃ px py, SpriteCovers s x y n px py ∧ s.pixel px py = true) → t.getV VF = 1) ∧
      ((∀ px py, SpriteCovers s x y n px py → s.pixel px py = false) → t.getV VF = 0) ∧
      (∀ j, j ≠ VF → t.getV j = s.getV j) ∧ PcAdvances s t ∧ SameExcept [.fb, .v, .pc] s t)

/-- DXYN with a row outside the memory raises and draws nothing (R171, R74; the spec's decision D4, log 8). -/
def Obligations.DrawOutsideMemoryFaults : Prop :=
  ∀ (s : State) (x y : Reg) (n : Nat), n < 16 → 0 < n → 4095 < s.i.toNat + n - 1 →
    exec (.drwVxVyN x y n) s = .fault (.addressOutOfBounds (max s.i.toNat 4096) s.pc)

/-- Drawing the same sprite at the same place twice restores the framebuffer, and the second draw sets VF exactly when the
first one turned a pixel on (R171; the position registers are not VF: D8, log 12). -/
def Obligations.DrawingTwiceRestoresTheFramebuffer : Prop :=
  ∀ (s t : State) (x y : Reg) (n : Nat), n < 16 → x ≠ VF → y ≠ VF → exec (.drwVxVyN x y n) s = .next t →
    ∃ u, exec (.drwVxVyN x y n) t = .next u ∧ (∀ px py, u.pixel px py = s.pixel px py) ∧
      ((∃ px py, SpriteCovers s x y n px py ∧ s.pixel px py = false) → u.getV VF = 1) ∧
      ((∀ px py, SpriteCovers s x y n px py → s.pixel px py = true) → u.getV VF = 0)

/-! ## Timers and keypad -/

/-- FX07, FX15, FX18 (R180, R182, R183). -/
def Obligations.TimerRegistersMove : Prop :=
  ∀ (s : State) (x : Reg), WordDecodesTo (0xF007 + x.val * 256) (.ldVxDt x) ∧
    WordDecodesTo (0xF015 + x.val * 256) (.ldDtVx x) ∧ WordDecodesTo (0xF018 + x.val * 256) (.ldStVx x) ∧
    CompletesWritingV (.ldVxDt x) s x (fun r => r = s.delay) ∧
    (∃ t, exec (.ldDtVx x) s = .next t ∧ t.delay = s.getV x ∧ PcAdvances s t ∧ SameExcept [.delay, .pc] s t) ∧
    (∃ t, exec (.ldStVx x) s = .next t ∧ t.sound = s.getV x ∧ PcAdvances s t ∧ SameExcept [.sound, .pc] s t)

/-- FX0A is a poll: with no key down it completes and changes nothing; with one down it stores 1, or in CANONICAL mode the
least pressed index, and moves on (R181; the least index is the spec's decision D9, log 3; completing idle is D10, log 13). -/
def Obligations.KeyWaitPolls : Prop :=
  ∀ (s : State) (x : Reg), WordDecodesTo (0xF00A + x.val * 256) (.ldVxK x) ∧
    ((∀ k, s.getKey k = false) → exec (.ldVxK x) s = .next s) ∧
    (∀ k : Reg, s.getKey k = true → (∀ j : Reg, j.val < k.val → s.getKey j = false) →
      (s.fx0aMode = .original → CompletesWritingV (.ldVxK x) s x (fun r => r.toNat = 1)) ∧
      (s.fx0aMode = .canonical → CompletesWritingV (.ldVxK x) s x (fun r => r.toNat = k.val)))

/-- TICK counts each timer down by one, floored at 0, changes nothing else, cannot fail and returns nothing (R203). -/
def Obligations.TickCountsBothTimersDown : Prop :=
  ∀ s : State, ∃ t, transact .tick s = (t, .done) ∧ t.delay.toNat = s.delay.toNat - 1 ∧ t.sound.toNat = s.sound.toNat - 1 ∧
    SameExcept [.delay, .sound] s t

/-- KEY_WRITE sets its key and nothing else (R32). -/
def Obligations.KeyWriteSetsOneKey : Prop :=
  ∀ (s : State) (k : Reg) (b : Bool), ∃ t, transact (.keyWrite k b) s = (t, .done) ∧ t.getKey k = b ∧
    (∀ j, j ≠ k → t.getKey j = s.getKey j) ∧ SameExcept [.key] s t

/-! ## Every instruction -/

/-- An instruction that completes changes only what R20's column "Written by" and R25's classes give it. -/
def Obligations.OnlyListedStateChanges : Prop :=
  ∀ (i : Instr) (s t : State), exec i s = .next t → SameExcept (writtenParts i) s t

/-- An instruction that completes changes only its destination registers (R21, R22) and the bytes it stores to (R66, R67). -/
def Obligations.OnlyDestinationsChange : Prop :=
  ∀ (i : Instr) (s t : State), exec i s = .next t →
    (∀ j, ¬ writesReg i j → t.getV j = s.getV j) ∧ (∀ a, ¬ storesTo i s a → t.readByte a = s.readByte a)

/-- An instruction completes, or raises the one error R190 and R198 give it, exactly when its condition holds (the two bounds
errors are the spec's decisions D4 and D5, log 8 and 9). -/
def Obligations.ErrorsAreExactlyTheListedOnes : Prop :=
  ∀ (i : Instr) (s : State), ((∃ t, exec i s = .next t) ↔ executionFault i s = none) ∧
    ∀ f, exec i s = .fault f ↔ executionFault i s = some f

/-- No transaction but CONSTRUCT changes a parameter (R35). -/
def Obligations.ParametersAreFixed : Prop :=
  ∀ (x : Transaction) (s : State), (∀ m f, x ≠ .construct m f) →
    (transact x s).1.fx0aMode = s.fx0aMode ∧ (transact x s).1.font = s.font

/-! ## Reset and load -/

/-- The state after reset. `pc`, the font's place and the empty stack are the source's (R39); every other value is the spec's
decision D1 or D2 (log 4, log 5). -/
def Obligations.ResetStateIsTheOneGiven : Prop :=
  State.reset.pc.toNat = 0x200 ∧ (∀ a : Fin 80, State.reset.readByte a.val = State.reset.font[a]) ∧
  (∀ a, 80 ≤ a → State.reset.readByte a = 0) ∧ State.reset.sp.val = 0 ∧ (∀ j : Fin 16, State.reset.stack[j] = 0) ∧
  (∀ j, State.reset.getV j = 0) ∧ State.reset.i = 0 ∧ State.reset.delay = 0 ∧ State.reset.sound = 0 ∧
  (∀ px py, State.reset.pixel px py = false) ∧ (∀ k, State.reset.getKey k = false) ∧ State.reset.cycleCount = 0 ∧
  State.reset.programSize.val = 0 ∧ State.reset.fx0aMode = .original

/-- A LOAD of at most 3584 bytes writes the font and the image, sets `pc`, `program_size` and `cycle_count`, and resets nothing
else (R221, R40; the spec's decision D19, log 18). -/
def Obligations.LoadPlacesFontAndImage : Prop :=
  ∀ (s : State) (bytes : List Byte), s.mem.wf s.font = true → bytes.length ≤ 3584 →
    ∃ t, transact (.load bytes) s = (t, .loaded bytes.length) ∧ (∀ a : Fin 80, t.readByte a.val = s.font[a]) ∧
      (∀ j : Fin bytes.length, t.readByte (0x200 + j.val) = bytes[j]) ∧
      (∀ a, 80 ≤ a → a < 0x200 ∨ 0x200 + bytes.length ≤ a → t.readByte a = s.readByte a) ∧
      t.pc.toNat = 0x200 ∧ t.programSize.val = bytes.length ∧ t.cycleCount = 0 ∧
      SameExcept [.mem, .pc, .programSize, .cycleCount] s t

/-- A LOAD of more bytes fails with TooLarge, having rewritten the font and nothing else (R222, R196; D19, log 18). -/
def Obligations.OversizedLoadRewritesTheFontOnly : Prop :=
  ∀ (s : State) (bytes : List Byte), s.mem.wf s.font = true → 3584 < bytes.length →
    ∃ t, transact (.load bytes) s = (t, .loadFailed .tooLarge) ∧ (∀ a : Fin 80, t.readByte a.val = s.font[a]) ∧
      (∀ a, 80 ≤ a → t.readByte a = s.readByte a) ∧ SameExcept [.mem] s t

/-- After CONSTRUCT and a LOAD of at least one word, the first instruction fetched is the first word of the image (R224, R64). -/
def Obligations.FirstFetchAfterLoadIsTheImage : Prop :=
  ∀ (m : FX0AMode) (f : Vector Byte 80) (hi lo : Byte) (rest : List Byte), rest.length + 2 ≤ 3584 →
    ∃ t, transact (.load (hi :: lo :: rest)) (construct m f) = (t, .loaded (rest.length + 2)) ∧
      (fetchWord t).toNat = hi.toNat * 256 + lo.toNat

/-! ## The whole machine -/

/-- The invariant holds at reset. That the stack entries are at most 4096 there rests on the model's reset values (log 4). -/
def Obligations.ResetMeetsTheInvariant : Prop := State.reset.Inv

/-- Every step keeps the invariant: canonical memory, stack entries at most 4096 (R27), `pc` at most 4350 (R26). -/
def Obligations.StepKeepsTheInvariant : Prop := ∀ s t : State, s.Inv → step s = .next t → t.Inv

/-- Every transaction of the host keeps the invariant, whatever it answers. For CONSTRUCT this rests on the reset values of the
stack entries (log 4). -/
def Obligations.TransactionsKeepTheInvariant : Prop := ∀ (x : Transaction) (s : State), s.Inv → (transact x s).1.Inv

/-- A STEP that raises raises again, the same error, whatever STEPs, TICKs, KEY_WRITEs and OBSERVEs come between, and all the
while nothing but the timers and the keys changes (R201, R199; that a raise changes no state is the spec's decision D6, log 10). -/
def Obligations.FaultsRepeatUntilReloaded : Prop :=
  ∀ (s : State) (rand : Byte) (f : Fault), stepWith rand s = .fault f →
    ∀ xs : List Transaction, (∀ x ∈ xs, x.keepsProgram = true) →
      SameExcept [.delay, .sound, .key] s (transactAll xs s) ∧
      ∀ r : Byte, transact (.step r) (transactAll xs s) = (transactAll xs s, .stepFailed f)

/-- What no program can read (`sound`, `program_size`, `cycle_count`, dead stack entries) never changes what a STEP does to the
rest (R37, R27): two states that differ only there step alike. -/
def Obligations.HiddenStateIsInvisible : Prop :=
  ∀ s t : State, s.mem.wf s.font = true → t.mem.wf t.font = true → SameForPrograms s t →
    ResultSameForPrograms (step s) (step t)

/-- A self-jump and an idle FX0A change nothing but the counts, and run on for ever (R225, R121, R181). Naming them ends of a
run is the spec's decision D28 (log 25), and that an idle FX0A completes and counts is D10 (log 13). That they run on from any
count is the model's choice: a STEP at `cycle_count = 2^64 - 1`, which D18 puts outside the specification, completes (log 7). -/
def Obligations.IdleEndsOfARunPersist : Prop :=
  ∀ s : State, AtSelfJump s ∨ AtIdlePoll s →
    (∃ t, step s = .next t ∧ SameExcept [.cycleCount, .draws] s t) ∧ ∀ k, SafeRun k s
end

