-- ==== Sys2Proof/Laws/State.lean ====
section
/-! SUPPORT. One lemma per field of State per update, each true by rfl, so that no proof unfolds a record update; then what
the accessors read after an update. -/

namespace Sys2Proof.Machine

/-! ### setV -/

@[simp] theorem State.setV_v (s : State) (x : Reg) (b : Byte) : (s.setV x b).v = s.v.set x b := rfl
@[simp] theorem State.setV_i (s : State) (x : Reg) (b : Byte) : (s.setV x b).i = s.i := rfl
@[simp] theorem State.setV_pc (s : State) (x : Reg) (b : Byte) : (s.setV x b).pc = s.pc := rfl
@[simp] theorem State.setV_stack (s : State) (x : Reg) (b : Byte) : (s.setV x b).stack = s.stack := rfl
@[simp] theorem State.setV_sp (s : State) (x : Reg) (b : Byte) : (s.setV x b).sp = s.sp := rfl
@[simp] theorem State.setV_delay (s : State) (x : Reg) (b : Byte) : (s.setV x b).delay = s.delay := rfl
@[simp] theorem State.setV_sound (s : State) (x : Reg) (b : Byte) : (s.setV x b).sound = s.sound := rfl
@[simp] theorem State.setV_fb (s : State) (x : Reg) (b : Byte) : (s.setV x b).fb = s.fb := rfl
@[simp] theorem State.setV_key (s : State) (x : Reg) (b : Byte) : (s.setV x b).key = s.key := rfl
@[simp] theorem State.setV_mem (s : State) (x : Reg) (b : Byte) : (s.setV x b).mem = s.mem := rfl
@[simp] theorem State.setV_cycleCount (s : State) (x : Reg) (b : Byte) : (s.setV x b).cycleCount = s.cycleCount := rfl
@[simp] theorem State.setV_programSize (s : State) (x : Reg) (b : Byte) :
    (s.setV x b).programSize = s.programSize := rfl
@[simp] theorem State.setV_fx0aMode (s : State) (x : Reg) (b : Byte) : (s.setV x b).fx0aMode = s.fx0aMode := rfl
@[simp] theorem State.setV_font (s : State) (x : Reg) (b : Byte) : (s.setV x b).font = s.font := rfl
@[simp] theorem State.setV_draws (s : State) (x : Reg) (b : Byte) : (s.setV x b).draws = s.draws := rfl

/-! ### setI -/

@[simp] theorem State.setI_v (s : State) (w : Word) : (s.setI w).v = s.v := rfl
@[simp] theorem State.setI_i (s : State) (w : Word) : (s.setI w).i = w := rfl
@[simp] theorem State.setI_pc (s : State) (w : Word) : (s.setI w).pc = s.pc := rfl
@[simp] theorem State.setI_stack (s : State) (w : Word) : (s.setI w).stack = s.stack := rfl
@[simp] theorem State.setI_sp (s : State) (w : Word) : (s.setI w).sp = s.sp := rfl
@[simp] theorem State.setI_delay (s : State) (w : Word) : (s.setI w).delay = s.delay := rfl
@[simp] theorem State.setI_sound (s : State) (w : Word) : (s.setI w).sound = s.sound := rfl
@[simp] theorem State.setI_fb (s : State) (w : Word) : (s.setI w).fb = s.fb := rfl
@[simp] theorem State.setI_key (s : State) (w : Word) : (s.setI w).key = s.key := rfl
@[simp] theorem State.setI_mem (s : State) (w : Word) : (s.setI w).mem = s.mem := rfl
@[simp] theorem State.setI_cycleCount (s : State) (w : Word) : (s.setI w).cycleCount = s.cycleCount := rfl
@[simp] theorem State.setI_programSize (s : State) (w : Word) : (s.setI w).programSize = s.programSize := rfl
@[simp] theorem State.setI_fx0aMode (s : State) (w : Word) : (s.setI w).fx0aMode = s.fx0aMode := rfl
@[simp] theorem State.setI_font (s : State) (w : Word) : (s.setI w).font = s.font := rfl
@[simp] theorem State.setI_draws (s : State) (w : Word) : (s.setI w).draws = s.draws := rfl

/-! ### setPc -/

@[simp] theorem State.setPc_v (s : State) (w : Word) : (s.setPc w).v = s.v := rfl
@[simp] theorem State.setPc_i (s : State) (w : Word) : (s.setPc w).i = s.i := rfl
@[simp] theorem State.setPc_pc (s : State) (w : Word) : (s.setPc w).pc = w := rfl
@[simp] theorem State.setPc_stack (s : State) (w : Word) : (s.setPc w).stack = s.stack := rfl
@[simp] theorem State.setPc_sp (s : State) (w : Word) : (s.setPc w).sp = s.sp := rfl
@[simp] theorem State.setPc_delay (s : State) (w : Word) : (s.setPc w).delay = s.delay := rfl
@[simp] theorem State.setPc_sound (s : State) (w : Word) : (s.setPc w).sound = s.sound := rfl
@[simp] theorem State.setPc_fb (s : State) (w : Word) : (s.setPc w).fb = s.fb := rfl
@[simp] theorem State.setPc_key (s : State) (w : Word) : (s.setPc w).key = s.key := rfl
@[simp] theorem State.setPc_mem (s : State) (w : Word) : (s.setPc w).mem = s.mem := rfl
@[simp] theorem State.setPc_cycleCount (s : State) (w : Word) : (s.setPc w).cycleCount = s.cycleCount := rfl
@[simp] theorem State.setPc_programSize (s : State) (w : Word) : (s.setPc w).programSize = s.programSize := rfl
@[simp] theorem State.setPc_fx0aMode (s : State) (w : Word) : (s.setPc w).fx0aMode = s.fx0aMode := rfl
@[simp] theorem State.setPc_font (s : State) (w : Word) : (s.setPc w).font = s.font := rfl
@[simp] theorem State.setPc_draws (s : State) (w : Word) : (s.setPc w).draws = s.draws := rfl

/-! ### setStack -/

@[simp] theorem State.setStack_v (s : State) (k : Vector Word 16) (n : Fin 17) : (s.setStack k n).v = s.v := rfl
@[simp] theorem State.setStack_i (s : State) (k : Vector Word 16) (n : Fin 17) : (s.setStack k n).i = s.i := rfl
@[simp] theorem State.setStack_pc (s : State) (k : Vector Word 16) (n : Fin 17) : (s.setStack k n).pc = s.pc := rfl
@[simp] theorem State.setStack_stack (s : State) (k : Vector Word 16) (n : Fin 17) : (s.setStack k n).stack = k := rfl
@[simp] theorem State.setStack_sp (s : State) (k : Vector Word 16) (n : Fin 17) : (s.setStack k n).sp = n := rfl
@[simp] theorem State.setStack_delay (s : State) (k : Vector Word 16) (n : Fin 17) :
    (s.setStack k n).delay = s.delay := rfl
@[simp] theorem State.setStack_sound (s : State) (k : Vector Word 16) (n : Fin 17) :
    (s.setStack k n).sound = s.sound := rfl
@[simp] theorem State.setStack_fb (s : State) (k : Vector Word 16) (n : Fin 17) : (s.setStack k n).fb = s.fb := rfl
@[simp] theorem State.setStack_key (s : State) (k : Vector Word 16) (n : Fin 17) : (s.setStack k n).key = s.key := rfl
@[simp] theorem State.setStack_mem (s : State) (k : Vector Word 16) (n : Fin 17) : (s.setStack k n).mem = s.mem := rfl
@[simp] theorem State.setStack_cycleCount (s : State) (k : Vector Word 16) (n : Fin 17) :
    (s.setStack k n).cycleCount = s.cycleCount := rfl
@[simp] theorem State.setStack_programSize (s : State) (k : Vector Word 16) (n : Fin 17) :
    (s.setStack k n).programSize = s.programSize := rfl
@[simp] theorem State.setStack_fx0aMode (s : State) (k : Vector Word 16) (n : Fin 17) :
    (s.setStack k n).fx0aMode = s.fx0aMode := rfl
@[simp] theorem State.setStack_font (s : State) (k : Vector Word 16) (n : Fin 17) :
    (s.setStack k n).font = s.font := rfl
@[simp] theorem State.setStack_draws (s : State) (k : Vector Word 16) (n : Fin 17) :
    (s.setStack k n).draws = s.draws := rfl

/-! ### setDelay -/

@[simp] theorem State.setDelay_v (s : State) (b : Byte) : (s.setDelay b).v = s.v := rfl
@[simp] theorem State.setDelay_i (s : State) (b : Byte) : (s.setDelay b).i = s.i := rfl
@[simp] theorem State.setDelay_pc (s : State) (b : Byte) : (s.setDelay b).pc = s.pc := rfl
@[simp] theorem State.setDelay_stack (s : State) (b : Byte) : (s.setDelay b).stack = s.stack := rfl
@[simp] theorem State.setDelay_sp (s : State) (b : Byte) : (s.setDelay b).sp = s.sp := rfl
@[simp] theorem State.setDelay_delay (s : State) (b : Byte) : (s.setDelay b).delay = b := rfl
@[simp] theorem State.setDelay_sound (s : State) (b : Byte) : (s.setDelay b).sound = s.sound := rfl
@[simp] theorem State.setDelay_fb (s : State) (b : Byte) : (s.setDelay b).fb = s.fb := rfl
@[simp] theorem State.setDelay_key (s : State) (b : Byte) : (s.setDelay b).key = s.key := rfl
@[simp] theorem State.setDelay_mem (s : State) (b : Byte) : (s.setDelay b).mem = s.mem := rfl
@[simp] theorem State.setDelay_cycleCount (s : State) (b : Byte) : (s.setDelay b).cycleCount = s.cycleCount := rfl
@[simp] theorem State.setDelay_programSize (s : State) (b : Byte) : (s.setDelay b).programSize = s.programSize := rfl
@[simp] theorem State.setDelay_fx0aMode (s : State) (b : Byte) : (s.setDelay b).fx0aMode = s.fx0aMode := rfl
@[simp] theorem State.setDelay_font (s : State) (b : Byte) : (s.setDelay b).font = s.font := rfl
@[simp] theorem State.setDelay_draws (s : State) (b : Byte) : (s.setDelay b).draws = s.draws := rfl

/-! ### setSound -/

@[simp] theorem State.setSound_v (s : State) (b : Byte) : (s.setSound b).v = s.v := rfl
@[simp] theorem State.setSound_i (s : State) (b : Byte) : (s.setSound b).i = s.i := rfl
@[simp] theorem State.setSound_pc (s : State) (b : Byte) : (s.setSound b).pc = s.pc := rfl
@[simp] theorem State.setSound_stack (s : State) (b : Byte) : (s.setSound b).stack = s.stack := rfl
@[simp] theorem State.setSound_sp (s : State) (b : Byte) : (s.setSound b).sp = s.sp := rfl
@[simp] theorem State.setSound_delay (s : State) (b : Byte) : (s.setSound b).delay = s.delay := rfl
@[simp] theorem State.setSound_sound (s : State) (b : Byte) : (s.setSound b).sound = b := rfl
@[simp] theorem State.setSound_fb (s : State) (b : Byte) : (s.setSound b).fb = s.fb := rfl
@[simp] theorem State.setSound_key (s : State) (b : Byte) : (s.setSound b).key = s.key := rfl
@[simp] theorem State.setSound_mem (s : State) (b : Byte) : (s.setSound b).mem = s.mem := rfl
@[simp] theorem State.setSound_cycleCount (s : State) (b : Byte) : (s.setSound b).cycleCount = s.cycleCount := rfl
@[simp] theorem State.setSound_programSize (s : State) (b : Byte) : (s.setSound b).programSize = s.programSize := rfl
@[simp] theorem State.setSound_fx0aMode (s : State) (b : Byte) : (s.setSound b).fx0aMode = s.fx0aMode := rfl
@[simp] theorem State.setSound_font (s : State) (b : Byte) : (s.setSound b).font = s.font := rfl
@[simp] theorem State.setSound_draws (s : State) (b : Byte) : (s.setSound b).draws = s.draws := rfl

/-! ### setFb -/

@[simp] theorem State.setFb_v (s : State) (f : Framebuffer) : (s.setFb f).v = s.v := rfl
@[simp] theorem State.setFb_i (s : State) (f : Framebuffer) : (s.setFb f).i = s.i := rfl
@[simp] theorem State.setFb_pc (s : State) (f : Framebuffer) : (s.setFb f).pc = s.pc := rfl
@[simp] theorem State.setFb_stack (s : State) (f : Framebuffer) : (s.setFb f).stack = s.stack := rfl
@[simp] theorem State.setFb_sp (s : State) (f : Framebuffer) : (s.setFb f).sp = s.sp := rfl
@[simp] theorem State.setFb_delay (s : State) (f : Framebuffer) : (s.setFb f).delay = s.delay := rfl
@[simp] theorem State.setFb_sound (s : State) (f : Framebuffer) : (s.setFb f).sound = s.sound := rfl
@[simp] theorem State.setFb_fb (s : State) (f : Framebuffer) : (s.setFb f).fb = f := rfl
@[simp] theorem State.setFb_key (s : State) (f : Framebuffer) : (s.setFb f).key = s.key := rfl
@[simp] theorem State.setFb_mem (s : State) (f : Framebuffer) : (s.setFb f).mem = s.mem := rfl
@[simp] theorem State.setFb_cycleCount (s : State) (f : Framebuffer) : (s.setFb f).cycleCount = s.cycleCount := rfl
@[simp] theorem State.setFb_programSize (s : State) (f : Framebuffer) : (s.setFb f).programSize = s.programSize := rfl
@[simp] theorem State.setFb_fx0aMode (s : State) (f : Framebuffer) : (s.setFb f).fx0aMode = s.fx0aMode := rfl
@[simp] theorem State.setFb_font (s : State) (f : Framebuffer) : (s.setFb f).font = s.font := rfl
@[simp] theorem State.setFb_draws (s : State) (f : Framebuffer) : (s.setFb f).draws = s.draws := rfl

/-! ### setKey -/

@[simp] theorem State.setKey_v (s : State) (k : Reg) (b : Bool) : (s.setKey k b).v = s.v := rfl
@[simp] theorem State.setKey_i (s : State) (k : Reg) (b : Bool) : (s.setKey k b).i = s.i := rfl
@[simp] theorem State.setKey_pc (s : State) (k : Reg) (b : Bool) : (s.setKey k b).pc = s.pc := rfl
@[simp] theorem State.setKey_stack (s : State) (k : Reg) (b : Bool) : (s.setKey k b).stack = s.stack := rfl
@[simp] theorem State.setKey_sp (s : State) (k : Reg) (b : Bool) : (s.setKey k b).sp = s.sp := rfl
@[simp] theorem State.setKey_delay (s : State) (k : Reg) (b : Bool) : (s.setKey k b).delay = s.delay := rfl
@[simp] theorem State.setKey_sound (s : State) (k : Reg) (b : Bool) : (s.setKey k b).sound = s.sound := rfl
@[simp] theorem State.setKey_fb (s : State) (k : Reg) (b : Bool) : (s.setKey k b).fb = s.fb := rfl
@[simp] theorem State.setKey_key (s : State) (k : Reg) (b : Bool) : (s.setKey k b).key = s.key.set k b := rfl
@[simp] theorem State.setKey_mem (s : State) (k : Reg) (b : Bool) : (s.setKey k b).mem = s.mem := rfl
@[simp] theorem State.setKey_cycleCount (s : State) (k : Reg) (b : Bool) :
    (s.setKey k b).cycleCount = s.cycleCount := rfl
@[simp] theorem State.setKey_programSize (s : State) (k : Reg) (b : Bool) :
    (s.setKey k b).programSize = s.programSize := rfl
@[simp] theorem State.setKey_fx0aMode (s : State) (k : Reg) (b : Bool) : (s.setKey k b).fx0aMode = s.fx0aMode := rfl
@[simp] theorem State.setKey_font (s : State) (k : Reg) (b : Bool) : (s.setKey k b).font = s.font := rfl
@[simp] theorem State.setKey_draws (s : State) (k : Reg) (b : Bool) : (s.setKey k b).draws = s.draws := rfl

/-! ### setMem -/

@[simp] theorem State.setMem_v (s : State) (m : Memory) : (s.setMem m).v = s.v := rfl
@[simp] theorem State.setMem_i (s : State) (m : Memory) : (s.setMem m).i = s.i := rfl
@[simp] theorem State.setMem_pc (s : State) (m : Memory) : (s.setMem m).pc = s.pc := rfl
@[simp] theorem State.setMem_stack (s : State) (m : Memory) : (s.setMem m).stack = s.stack := rfl
@[simp] theorem State.setMem_sp (s : State) (m : Memory) : (s.setMem m).sp = s.sp := rfl
@[simp] theorem State.setMem_delay (s : State) (m : Memory) : (s.setMem m).delay = s.delay := rfl
@[simp] theorem State.setMem_sound (s : State) (m : Memory) : (s.setMem m).sound = s.sound := rfl
@[simp] theorem State.setMem_fb (s : State) (m : Memory) : (s.setMem m).fb = s.fb := rfl
@[simp] theorem State.setMem_key (s : State) (m : Memory) : (s.setMem m).key = s.key := rfl
@[simp] theorem State.setMem_mem (s : State) (m : Memory) : (s.setMem m).mem = m := rfl
@[simp] theorem State.setMem_cycleCount (s : State) (m : Memory) : (s.setMem m).cycleCount = s.cycleCount := rfl
@[simp] theorem State.setMem_programSize (s : State) (m : Memory) : (s.setMem m).programSize = s.programSize := rfl
@[simp] theorem State.setMem_fx0aMode (s : State) (m : Memory) : (s.setMem m).fx0aMode = s.fx0aMode := rfl
@[simp] theorem State.setMem_font (s : State) (m : Memory) : (s.setMem m).font = s.font := rfl
@[simp] theorem State.setMem_draws (s : State) (m : Memory) : (s.setMem m).draws = s.draws := rfl

/-! ### setLoaded -/

@[simp] theorem State.setLoaded_v (s : State) (n : Fin 3585) : (s.setLoaded n).v = s.v := rfl
@[simp] theorem State.setLoaded_i (s : State) (n : Fin 3585) : (s.setLoaded n).i = s.i := rfl
@[simp] theorem State.setLoaded_pc (s : State) (n : Fin 3585) : (s.setLoaded n).pc = s.pc := rfl
@[simp] theorem State.setLoaded_stack (s : State) (n : Fin 3585) : (s.setLoaded n).stack = s.stack := rfl
@[simp] theorem State.setLoaded_sp (s : State) (n : Fin 3585) : (s.setLoaded n).sp = s.sp := rfl
@[simp] theorem State.setLoaded_delay (s : State) (n : Fin 3585) : (s.setLoaded n).delay = s.delay := rfl
@[simp] theorem State.setLoaded_sound (s : State) (n : Fin 3585) : (s.setLoaded n).sound = s.sound := rfl
@[simp] theorem State.setLoaded_fb (s : State) (n : Fin 3585) : (s.setLoaded n).fb = s.fb := rfl
@[simp] theorem State.setLoaded_key (s : State) (n : Fin 3585) : (s.setLoaded n).key = s.key := rfl
@[simp] theorem State.setLoaded_mem (s : State) (n : Fin 3585) : (s.setLoaded n).mem = s.mem := rfl
@[simp] theorem State.setLoaded_cycleCount (s : State) (n : Fin 3585) : (s.setLoaded n).cycleCount = 0 := rfl
@[simp] theorem State.setLoaded_programSize (s : State) (n : Fin 3585) : (s.setLoaded n).programSize = n := rfl
@[simp] theorem State.setLoaded_fx0aMode (s : State) (n : Fin 3585) : (s.setLoaded n).fx0aMode = s.fx0aMode := rfl
@[simp] theorem State.setLoaded_font (s : State) (n : Fin 3585) : (s.setLoaded n).font = s.font := rfl
@[simp] theorem State.setLoaded_draws (s : State) (n : Fin 3585) : (s.setLoaded n).draws = s.draws := rfl

/-! ### countCycle -/

@[simp] theorem State.countCycle_v (s : State) : (s.countCycle).v = s.v := rfl
@[simp] theorem State.countCycle_i (s : State) : (s.countCycle).i = s.i := rfl
@[simp] theorem State.countCycle_pc (s : State) : (s.countCycle).pc = s.pc := rfl
@[simp] theorem State.countCycle_stack (s : State) : (s.countCycle).stack = s.stack := rfl
@[simp] theorem State.countCycle_sp (s : State) : (s.countCycle).sp = s.sp := rfl
@[simp] theorem State.countCycle_delay (s : State) : (s.countCycle).delay = s.delay := rfl
@[simp] theorem State.countCycle_sound (s : State) : (s.countCycle).sound = s.sound := rfl
@[simp] theorem State.countCycle_fb (s : State) : (s.countCycle).fb = s.fb := rfl
@[simp] theorem State.countCycle_key (s : State) : (s.countCycle).key = s.key := rfl
@[simp] theorem State.countCycle_mem (s : State) : (s.countCycle).mem = s.mem := rfl
@[simp] theorem State.countCycle_cycleCount (s : State) :
    (s.countCycle).cycleCount = nextCycleCount s.cycleCount s.draws := rfl
@[simp] theorem State.countCycle_programSize (s : State) : (s.countCycle).programSize = s.programSize := rfl
@[simp] theorem State.countCycle_fx0aMode (s : State) : (s.countCycle).fx0aMode = s.fx0aMode := rfl
@[simp] theorem State.countCycle_font (s : State) : (s.countCycle).font = s.font := rfl
@[simp] theorem State.countCycle_draws (s : State) : (s.countCycle).draws = s.draws + 1 := rfl

/-! ### The composed updates -/

@[simp] theorem State.advance_eq (s : State) : s.advance = s.setPc (s.pc + 2) := rfl

@[simp] theorem State.skipIf_eq (s : State) (c : Bool) : s.skipIf c = s.setPc (s.pc + if c then 4 else 2) := rfl

@[simp] theorem State.writeByte_eq (s : State) (a : Nat) (b : Byte) :
    s.writeByte a b = s.setMem (s.mem.write s.font a b) := rfl

@[simp] theorem tick_eq (s : State) : tick s = (s.setDelay (countDown s.delay)).setSound (countDown s.sound) := rfl

@[simp] theorem keyWrite_eq (k : Reg) (b : Bool) (s : State) : keyWrite k b s = s.setKey k b := rfl

/-! ### What an accessor reads after an update -/

theorem State.getV_setV (s : State) (x y : Reg) (b : Byte) :
    (s.setV x b).getV y = if y = x then b else s.getV y := by
  simp only [State.getV, State.setV_v]
  split
  · next h => subst h; exact Vector.getElem_set_self _
  · next h => exact Vector.getElem_set_ne _ _ (fun e => h (Fin.ext e.symm))

@[simp] theorem State.getV_setV_same (s : State) (x : Reg) (b : Byte) : (s.setV x b).getV x = b := by
  simp [State.getV_setV]

@[simp] theorem State.getV_setV_other (s : State) {x y : Reg} (b : Byte) (h : y ≠ x) :
    (s.setV x b).getV y = s.getV y := by
  simp [State.getV_setV, h]

theorem State.getKey_setKey (s : State) (k j : Reg) (b : Bool) :
    (s.setKey k b).getKey j = if j = k then b else s.getKey j := by
  simp only [State.getKey, State.setKey_key]
  split
  · next h => subst h; exact Vector.getElem_set_self _
  · next h => exact Vector.getElem_set_ne _ _ (fun e => h (Fin.ext e.symm))

@[simp] theorem State.getV_setI (s : State) (w : Word) (y : Reg) : (s.setI w).getV y = s.getV y := rfl
@[simp] theorem State.getV_setPc (s : State) (w : Word) (y : Reg) : (s.setPc w).getV y = s.getV y := rfl
@[simp] theorem State.getV_setStack (s : State) (k : Vector Word 16) (n : Fin 17) (y : Reg) :
    (s.setStack k n).getV y = s.getV y := rfl
@[simp] theorem State.getV_setDelay (s : State) (b : Byte) (y : Reg) : (s.setDelay b).getV y = s.getV y := rfl
@[simp] theorem State.getV_setSound (s : State) (b : Byte) (y : Reg) : (s.setSound b).getV y = s.getV y := rfl
@[simp] theorem State.getV_setFb (s : State) (f : Framebuffer) (y : Reg) : (s.setFb f).getV y = s.getV y := rfl
@[simp] theorem State.getV_setKey (s : State) (k : Reg) (b : Bool) (y : Reg) : (s.setKey k b).getV y = s.getV y := rfl
@[simp] theorem State.getV_setMem (s : State) (m : Memory) (y : Reg) : (s.setMem m).getV y = s.getV y := rfl
@[simp] theorem State.getV_setLoaded (s : State) (n : Fin 3585) (y : Reg) : (s.setLoaded n).getV y = s.getV y := rfl
@[simp] theorem State.getV_countCycle (s : State) (y : Reg) : (s.countCycle).getV y = s.getV y := rfl

@[simp] theorem State.getKey_setV (s : State) (x : Reg) (b : Byte) (j : Reg) :
    (s.setV x b).getKey j = s.getKey j := rfl
@[simp] theorem State.getKey_setI (s : State) (w : Word) (j : Reg) : (s.setI w).getKey j = s.getKey j := rfl
@[simp] theorem State.getKey_setPc (s : State) (w : Word) (j : Reg) : (s.setPc w).getKey j = s.getKey j := rfl
@[simp] theorem State.getKey_setStack (s : State) (k : Vector Word 16) (n : Fin 17) (j : Reg) :
    (s.setStack k n).getKey j = s.getKey j := rfl
@[simp] theorem State.getKey_setDelay (s : State) (b : Byte) (j : Reg) : (s.setDelay b).getKey j = s.getKey j := rfl
@[simp] theorem State.getKey_setSound (s : State) (b : Byte) (j : Reg) : (s.setSound b).getKey j = s.getKey j := rfl
@[simp] theorem State.getKey_setFb (s : State) (f : Framebuffer) (j : Reg) : (s.setFb f).getKey j = s.getKey j := rfl
@[simp] theorem State.getKey_setMem (s : State) (m : Memory) (j : Reg) : (s.setMem m).getKey j = s.getKey j := rfl
@[simp] theorem State.getKey_setLoaded (s : State) (n : Fin 3585) (j : Reg) :
    (s.setLoaded n).getKey j = s.getKey j := rfl
@[simp] theorem State.getKey_countCycle (s : State) (j : Reg) : (s.countCycle).getKey j = s.getKey j := rfl

@[simp] theorem State.pixel_setV (s : State) (x : Reg) (b : Byte) (px : Fin 64) (py : Fin 32) :
    (s.setV x b).pixel px py = s.pixel px py := rfl
@[simp] theorem State.pixel_setI (s : State) (w : Word) (px : Fin 64) (py : Fin 32) :
    (s.setI w).pixel px py = s.pixel px py := rfl
@[simp] theorem State.pixel_setPc (s : State) (w : Word) (px : Fin 64) (py : Fin 32) :
    (s.setPc w).pixel px py = s.pixel px py := rfl
@[simp] theorem State.pixel_setStack (s : State) (k : Vector Word 16) (n : Fin 17) (px : Fin 64) (py : Fin 32) :
    (s.setStack k n).pixel px py = s.pixel px py := rfl
@[simp] theorem State.pixel_setDelay (s : State) (b : Byte) (px : Fin 64) (py : Fin 32) :
    (s.setDelay b).pixel px py = s.pixel px py := rfl
@[simp] theorem State.pixel_setSound (s : State) (b : Byte) (px : Fin 64) (py : Fin 32) :
    (s.setSound b).pixel px py = s.pixel px py := rfl
@[simp] theorem State.pixel_setKey (s : State) (k : Reg) (b : Bool) (px : Fin 64) (py : Fin 32) :
    (s.setKey k b).pixel px py = s.pixel px py := rfl
@[simp] theorem State.pixel_setMem (s : State) (m : Memory) (px : Fin 64) (py : Fin 32) :
    (s.setMem m).pixel px py = s.pixel px py := rfl
@[simp] theorem State.pixel_setLoaded (s : State) (n : Fin 3585) (px : Fin 64) (py : Fin 32) :
    (s.setLoaded n).pixel px py = s.pixel px py := rfl
@[simp] theorem State.pixel_countCycle (s : State) (px : Fin 64) (py : Fin 32) :
    (s.countCycle).pixel px py = s.pixel px py := rfl

@[simp] theorem State.readByte_setV (s : State) (x : Reg) (b : Byte) (c : Nat) :
    (s.setV x b).readByte c = s.readByte c := rfl
@[simp] theorem State.readByte_setI (s : State) (w : Word) (c : Nat) : (s.setI w).readByte c = s.readByte c := rfl
@[simp] theorem State.readByte_setPc (s : State) (w : Word) (c : Nat) : (s.setPc w).readByte c = s.readByte c := rfl
@[simp] theorem State.readByte_setStack (s : State) (k : Vector Word 16) (n : Fin 17) (c : Nat) :
    (s.setStack k n).readByte c = s.readByte c := rfl
@[simp] theorem State.readByte_setDelay (s : State) (b : Byte) (c : Nat) :
    (s.setDelay b).readByte c = s.readByte c := rfl
@[simp] theorem State.readByte_setSound (s : State) (b : Byte) (c : Nat) :
    (s.setSound b).readByte c = s.readByte c := rfl
@[simp] theorem State.readByte_setFb (s : State) (f : Framebuffer) (c : Nat) :
    (s.setFb f).readByte c = s.readByte c := rfl
@[simp] theorem State.readByte_setKey (s : State) (k : Reg) (b : Bool) (c : Nat) :
    (s.setKey k b).readByte c = s.readByte c := rfl
@[simp] theorem State.readByte_setLoaded (s : State) (n : Fin 3585) (c : Nat) :
    (s.setLoaded n).readByte c = s.readByte c := rfl
@[simp] theorem State.readByte_countCycle (s : State) (c : Nat) : (s.countCycle).readByte c = s.readByte c := rfl

end Sys2Proof.Machine
end

