-- ==== Sys2Proof/Laws/Alu.lean ====
section
/-! SUPPORT. The flag bytes and the timers as numbers (42_register_alu.md R152, 60_exceptions.md R203). -/

namespace Sys2Proof.Machine

theorem flagByte_toNat (c : Prop) [Decidable c] : (flagByte (decide c)).toNat = if c then 1 else 0 := by
  by_cases h : c <;> simp [flagByte, h]

theorem carryFlag_toNat (a b : Byte) : (carryFlag a b).toNat = if 255 < a.toNat + b.toNat then 1 else 0 :=
  flagByte_toNat _

theorem noBorrowFlag_toNat (m s : Byte) : (noBorrowFlag m s).toNat = if s.toNat < m.toNat then 1 else 0 :=
  flagByte_toNat _

theorem lowBitFlag_toNat (a : Byte) : (lowBitFlag a).toNat = a.toNat % 2 := by
  simp [lowBitFlag, Nat.and_one_is_mod]

theorem highBitFlag_toNat (a : Byte) : (highBitFlag a).toNat = a.toNat / 128 := by
  revert a
  decide

/-- Subtraction wraps modulo 256. -/
theorem byte_sub_toNat (a b : Byte) : (a - b).toNat = (a.toNat + 256 - b.toNat) % 256 := by
  have := b.isLt
  rw [BitVec.toNat_sub]
  omega

theorem countDown_toNat (b : Byte) : (countDown b).toNat = b.toNat - 1 := by
  revert b
  decide

end Sys2Proof.Machine
end

