-- ==== Sys2Proof/Laws/Decode.lean ====
section
/-! SUPPORT. The fields of an encoded word, format by format (30_encoding.md R91, R92). -/

namespace Sys2Proof

/-! ### What number a word is -/

theorem encodeA_toNat {g : Nat} (hg : g < 16) {nnn : Word} (h : nnn.toNat < 4096) :
    (encodeA g nnn).toNat = g * 4096 + nnn.toNat := by
  simp only [encodeA, BitVec.toNat_ofNat]
  omega

theorem encodeXI_toNat {g : Nat} (hg : g < 16) (x : Reg) (nn : Byte) :
    (encodeXI g x nn).toNat = g * 4096 + x.val * 256 + nn.toNat := by
  have := nn.isLt
  simp only [encodeXI, BitVec.toNat_ofNat]
  omega

theorem encodeXYN_toNat {g n : Nat} (hg : g < 16) (hn : n < 16) (x y : Reg) :
    (encodeXYN g x y n).toNat = g * 4096 + x.val * 256 + y.val * 16 + n := by
  simp only [encodeXYN, BitVec.toNat_ofNat]
  omega

theorem encodeXF_toNat {g f : Nat} (hg : g < 16) (hf : f < 256) (x : Reg) :
    (encodeXF g x f).toNat = g * 4096 + x.val * 256 + f := by
  simp only [encodeXF, BitVec.toNat_ofNat]
  omega

/-! ### Fields from that number -/

theorem opX_of_toNat {op : Word} {x : Reg} {r g : Nat} (h : op.toNat = g * 4096 + x.val * 256 + r) (hr : r < 256) :
    opX op = x := by
  apply Fin.ext
  simp only [opX, h, Fin.val_ofNat]
  omega

theorem opY_of_toNat {op : Word} {y : Reg} {q r : Nat} (h : op.toNat = q * 256 + y.val * 16 + r) (hr : r < 16) :
    opY op = y := by
  apply Fin.ext
  simp only [opY, h, Fin.val_ofNat]
  omega

theorem opNN_of_toNat {op : Word} {nn : Byte} {q : Nat} (h : op.toNat = q * 256 + nn.toNat) : opNN op = nn := by
  apply BitVec.eq_of_toNat_eq
  have := nn.isLt
  simp only [opNN, h, BitVec.toNat_ofNat]
  omega

theorem opNNN_of_toNat {op nnn : Word} {g : Nat} (h : op.toNat = g * 4096 + nnn.toNat) (hn : nnn.toNat < 4096) :
    opNNN op = nnn := by
  apply BitVec.eq_of_toNat_eq
  simp only [opNNN, h, BitVec.toNat_ofNat]
  omega

/-- The two bytes of a word assemble to the word (R64, R91). -/
theorem assembleWord_wordBytes (op : Word) :
    assembleWord (BitVec.ofNat 8 (op.toNat / 256)) (BitVec.ofNat 8 op.toNat) = op := by
  apply BitVec.eq_of_toNat_eq
  have := op.isLt
  simp only [assembleWord, BitVec.toNat_ofNat]
  omega

theorem assembleWord_toNat (hi lo : Byte) : (assembleWord hi lo).toNat = hi.toNat * 256 + lo.toNat := by
  have := hi.isLt
  have := lo.isLt
  simp only [assembleWord, BitVec.toNat_ofNat]
  omega

end Sys2Proof
end

