-- ==== Sys2Proof/Laws/Display.lean ====
section
/-! SUPPORT. What one pixel, one row and one sprite do to the framebuffer (44_display.md R171, R172). -/

namespace Sys2Proof.Machine

theorem Framebuffer.pixel_setPixel (fb : Framebuffer) (x px : Fin 64) (y py : Fin 32) (b : Bool) :
    (fb.setPixel x y b).pixel px py = if px = x ∧ py = y then b else fb.pixel px py := by
  unfold Framebuffer.setPixel Framebuffer.pixel
  by_cases hy : py = y
  · subst hy
    by_cases hx : px = x
    · subst hx; simp
    · have hv : x.val ≠ px.val := fun e => hx (Fin.ext e.symm)
      simp [hx, Vector.getElem_set_ne _ _ hv]
  · have hv : y.val ≠ py.val := fun e => hy (Fin.ext e.symm)
    simp [hy, Vector.getElem_set_ne _ _ hv]

@[simp] theorem Framebuffer.pixel_blank (px : Fin 64) (py : Fin 32) : Framebuffer.blank.pixel px py = false := by
  simp [Framebuffer.blank, Framebuffer.pixel]

/-- One sprite bit XORs its own pixel and no other. -/
theorem xorPixel_pixel (d : Drawing) (x px : Fin 64) (y py : Fin 32) (bit : Bool) :
    (xorPixel d x y bit).1.pixel px py = (d.1.pixel px py ^^ (decide (px = x ∧ py = y) && bit)) := by
  rw [xorPixel, Framebuffer.pixel_setPixel]
  by_cases h : px = x ∧ py = y
  · obtain ⟨rfl, rfl⟩ := h; simp
  · simp [h]

/-- A collision is recorded when the bit meets a pixel that is on, and stays recorded. -/
theorem xorPixel_collision (d : Drawing) (x : Fin 64) (y : Fin 32) (bit : Bool) :
    (xorPixel d x y bit).2 = (d.2 || (d.1.pixel x y && bit)) := by
  cases h : d.1.pixel x y <;> simp [xorPixel, h]

/-! ### A sprite row, and a sprite -/

/-- One of the first `n` columns of the sprite byte `b` at column `x0` sets a 1 bit at column `px`. -/
def ColumnsHit (b : Byte) (x0 n : Nat) (px : Fin 64) : Prop :=
  ∃ col, col < n ∧ px.val = (x0 + col) % 64 ∧ b.getLsbD (7 - col) = true

theorem columnsHit_succ {b : Byte} {x0 n : Nat} {px : Fin 64} :
    ColumnsHit b x0 (n + 1) px ↔
      ColumnsHit b x0 n px ∨ (px = Fin.ofNat 64 (x0 + n) ∧ b.getLsbD (7 - n) = true) := by
  constructor
  · rintro ⟨c, hc, e, hb⟩
    rcases Nat.lt_succ_iff_lt_or_eq.mp hc with hc | rfl
    · exact .inl ⟨c, hc, e, hb⟩
    · exact .inr ⟨Fin.ext e, hb⟩
  · rintro (⟨c, hc, e, hb⟩ | ⟨rfl, hb⟩)
    · exact ⟨c, by omega, e, hb⟩
    · exact ⟨n, by omega, rfl, hb⟩

/-- The columns of one row are distinct pixels: the next column is not one already drawn. -/
theorem not_columnsHit_next {b : Byte} {x0 n : Nat} (hn : n < 8) : ¬ ColumnsHit b x0 n (Fin.ofNat 64 (x0 + n)) := by
  rintro ⟨c, hc, e, _⟩
  have e : (x0 + n) % 64 = (x0 + c) % 64 := e
  omega

open Classical in
/-- A row toggles the pixels its 1 bits hit, and no other. -/
theorem drawColumns_pixel (b : Byte) (x0 : Nat) (py : Fin 32) (d : Drawing) {n : Nat} (hn : n ≤ 8) (px : Fin 64) (qy : Fin 32) :
    (drawColumns b x0 py d n).1.pixel px qy = (d.1.pixel px qy ^^ decide (qy = py ∧ ColumnsHit b x0 n px)) := by
  induction n with
  | zero => simp [drawColumns, ColumnsHit]
  | succ n ih =>
    rw [drawColumns, xorPixel_pixel, ih (by omega), Bool.xor_assoc, columnsHit_succ]
    congr 1
    by_cases hq : qy = py
    · by_cases hx : px = Fin.ofNat 64 (x0 + n)
      · have h := not_columnsHit_next (b := b) (x0 := x0) (n := n) (by omega)
        rw [← hx] at h ⊢
        cases hb : b.getLsbD (7 - n) <;> simp [hq, h]
      · simp [-Fin.ofNat_eq_cast, hq, hx]
    · simp [hq]

/-- A row records a collision when one of its 1 bits hits a pixel that is on. -/
theorem drawColumns_collision (b : Byte) (x0 : Nat) (py : Fin 32) (d : Drawing) {n : Nat} (hn : n ≤ 8) :
    (drawColumns b x0 py d n).2 = true ↔ d.2 = true ∨ ∃ px, ColumnsHit b x0 n px ∧ d.1.pixel px py = true := by
  induction n with
  | zero => simp [drawColumns, ColumnsHit]
  | succ n ih =>
    have hnext : (drawColumns b x0 py d n).1.pixel (Fin.ofNat 64 (x0 + n)) py = d.1.pixel (Fin.ofNat 64 (x0 + n)) py := by
      rw [drawColumns_pixel b x0 py d (by omega)]
      simp [-Fin.ofNat_eq_cast, not_columnsHit_next (b := b) (x0 := x0) (show n < 8 by omega)]
    rw [drawColumns, xorPixel_collision, Bool.or_eq_true, ih (by omega), Bool.and_eq_true, or_assoc, hnext]
    refine or_congr Iff.rfl ⟨?_, ?_⟩
    · rintro (⟨px, h, hp⟩ | ⟨hp, hb⟩)
      · exact ⟨px, columnsHit_succ.mpr (.inl h), hp⟩
      · exact ⟨_, columnsHit_succ.mpr (.inr ⟨rfl, hb⟩), hp⟩
    · rintro ⟨px, h, hp⟩
      rcases columnsHit_succ.mp h with h | ⟨rfl, hb⟩
      · exact .inl ⟨px, h, hp⟩
      · exact .inr ⟨hp, hb⟩

/-- One of the first `n` rows of the sprite at `I`, drawn at `(x0, y0)`, sets a 1 bit at pixel `(px, py)`. -/
def RowsHit (s : State) (x0 y0 n : Nat) (px : Fin 64) (py : Fin 32) : Prop :=
  ∃ row, row < n ∧ py.val = (y0 + row) % 32 ∧ ColumnsHit (s.readByte (indexAddr s row)) x0 8 px

theorem rowsHit_succ {s : State} {x0 y0 n : Nat} {px : Fin 64} {py : Fin 32} :
    RowsHit s x0 y0 (n + 1) px py ↔
      RowsHit s x0 y0 n px py ∨ (py = Fin.ofNat 32 (y0 + n) ∧ ColumnsHit (s.readByte (indexAddr s n)) x0 8 px) := by
  constructor
  · rintro ⟨r, hr, e, h⟩
    rcases Nat.lt_succ_iff_lt_or_eq.mp hr with hr | rfl
    · exact .inl ⟨r, hr, e, h⟩
    · exact .inr ⟨Fin.ext e, h⟩
  · rintro (⟨r, hr, e, h⟩ | ⟨rfl, h⟩)
    · exact ⟨r, by omega, e, h⟩
    · exact ⟨n, by omega, rfl, h⟩

/-- The rows of one sprite are distinct lines: the next line is not one already drawn. -/
theorem not_rowsHit_next {s : State} {x0 y0 n : Nat} (hn : n < 16) (px : Fin 64) :
    ¬ RowsHit s x0 y0 n px (Fin.ofNat 32 (y0 + n)) := by
  rintro ⟨r, hr, e, _⟩
  have e : (y0 + n) % 32 = (y0 + r) % 32 := e
  omega

open Classical in
/-- A sprite toggles the pixels its 1 bits hit, and no other. -/
theorem drawRows_pixel (s : State) (x0 y0 : Nat) {n : Nat} (hn : n ≤ 16) (px : Fin 64) (py : Fin 32) :
    (drawRows s x0 y0 n).1.pixel px py = (s.pixel px py ^^ decide (RowsHit s x0 y0 n px py)) := by
  induction n with
  | zero => simp [drawRows, RowsHit, State.pixel]
  | succ n ih =>
    rw [drawRows, drawColumns_pixel _ _ _ _ (le_refl 8), ih (by omega), Bool.xor_assoc, rowsHit_succ]
    congr 1
    by_cases hy : py = Fin.ofNat 32 (y0 + n)
    · have h := not_rowsHit_next (s := s) (x0 := x0) (y0 := y0) (n := n) (by omega) px
      rw [← hy] at h ⊢
      simp [h]
    · simp [-Fin.ofNat_eq_cast, hy]

/-- A sprite records a collision when one of its 1 bits hits a pixel that was on. -/
theorem drawRows_collision (s : State) (x0 y0 : Nat) {n : Nat} (hn : n ≤ 16) :
    (drawRows s x0 y0 n).2 = true ↔ ∃ px py, RowsHit s x0 y0 n px py ∧ s.pixel px py = true := by
  induction n with
  | zero => simp [drawRows, RowsHit]
  | succ n ih =>
    have hnext : ∀ px, (drawRows s x0 y0 n).1.pixel px (Fin.ofNat 32 (y0 + n)) = s.pixel px (Fin.ofNat 32 (y0 + n)) := by
      intro px
      rw [drawRows_pixel s x0 y0 (by omega)]
      simp [-Fin.ofNat_eq_cast, not_rowsHit_next (s := s) (x0 := x0) (show n < 16 by omega) px]
    rw [drawRows, drawColumns_collision _ _ _ _ (le_refl 8), ih (by omega)]
    simp only [hnext]
    constructor
    · rintro (⟨px, py, h, hp⟩ | ⟨px, h, hp⟩)
      · exact ⟨px, py, rowsHit_succ.mpr (.inl h), hp⟩
      · exact ⟨px, _, rowsHit_succ.mpr (.inr ⟨rfl, h⟩), hp⟩
    · rintro ⟨px, py, h, hp⟩
      rcases rowsHit_succ.mp h with h | ⟨rfl, hc⟩
      · exact .inl ⟨px, py, h, hp⟩
      · exact .inr ⟨px, hc, hp⟩

end Sys2Proof.Machine
end

