-- ==== Sys2Proof/Laws/Memory.lean ====
section
/-! SUPPORT. The laws of memory: read after write, and the canonical form kept by every memory operation. -/

namespace Sys2Proof.Machine

variable {font : Vector Byte 80}

theorem Memory.wfFrom_cons {lo k : Nat} {b : Byte} {m : Memory} :
    Memory.wfFrom font lo ((k, b) :: m) = true ↔
      lo ≤ k ∧ k < 4096 ∧ b ≠ Memory.unlisted font k ∧ Memory.wfFrom font (k + 1) m = true := by
  simp [Memory.wfFrom, and_assoc]

theorem Memory.wfFrom_mono {lo lo' : Nat} (h : lo' ≤ lo) {m : Memory} (hm : Memory.wfFrom font lo m = true) :
    Memory.wfFrom font lo' m = true := by
  cases m with
  | nil => rfl
  | cons c m =>
    rw [Memory.wfFrom_cons] at hm ⊢
    exact ⟨h.trans hm.1, hm.2⟩

/-- An address below every cell is not listed. -/
theorem Memory.read_below {lo a : Nat} {m : Memory} (hm : Memory.wfFrom font lo m = true) (ha : a < lo) :
    Memory.read font m a = Memory.unlisted font a := by
  induction m generalizing lo with
  | nil => rfl
  | cons c m ih =>
    obtain ⟨hlo, _, _, hm⟩ := Memory.wfFrom_cons.mp hm
    rw [Memory.read, if_neg (by omega)]
    exact ih hm (by omega)

theorem Memory.read_cons {a c : Nat} {b : Byte} {m : Memory} (h : Memory.read font m a = Memory.unlisted font a) :
    Memory.read font (Memory.cons font a b m) c = if c = a then b else Memory.read font m c := by
  unfold Memory.cons
  by_cases hb : b = Memory.unlisted font a
  · by_cases hc : c = a
    · subst hc; simp [hb, h]
    · simp [hb, hc]
  · by_cases hc : c = a
    · subst hc; simp [hb, Memory.read]
    · simp [hb, Memory.read, hc, Ne.symm hc]

theorem Memory.wfFrom_cons_keeps {lo a : Nat} {b : Byte} {m : Memory} (hm : Memory.wfFrom font (a + 1) m = true)
    (hlo : lo ≤ a) (ha : a < 4096) : Memory.wfFrom font lo (Memory.cons font a b m) = true := by
  unfold Memory.cons
  by_cases hb : b = Memory.unlisted font a
  · simpa [hb] using Memory.wfFrom_mono (by omega) hm
  · simpa [hb, Memory.wfFrom_cons] using ⟨hlo, ha, hm⟩

theorem Memory.read_insert {lo a c : Nat} {b : Byte} {m : Memory} (hm : Memory.wfFrom font lo m = true) :
    Memory.read font (Memory.insert font m a b) c = if c = a then b else Memory.read font m c := by
  induction m generalizing lo with
  | nil => exact Memory.read_cons rfl
  | cons d m ih =>
    obtain ⟨k, x⟩ := d
    have hm' := Memory.wfFrom_cons.mp hm
    rw [Memory.insert]
    split
    · next h => exact Memory.read_cons (Memory.read_below (lo := k) (Memory.wfFrom_cons.mpr ⟨le_refl k, hm'.2⟩) h)
    · split
      · next h =>
        subst h
        rw [Memory.read_cons (Memory.read_below hm'.2.2.2 (by omega))]
        by_cases hc : c = a
        · simp [hc]
        · simp [hc, Memory.read, Ne.symm hc]
      · next h =>
        rw [Memory.read, ih hm'.2.2.2, Memory.read]
        by_cases hk : k = c
        · simp [hk, Ne.symm (hk ▸ h : a ≠ c)]
        · simp [hk]

theorem Memory.wfFrom_insert {lo a : Nat} {b : Byte} {m : Memory} (hm : Memory.wfFrom font lo m = true) (hlo : lo ≤ a)
    (ha : a < 4096) : Memory.wfFrom font lo (Memory.insert font m a b) = true := by
  induction m generalizing lo with
  | nil => exact Memory.wfFrom_cons_keeps rfl hlo ha
  | cons d m ih =>
    obtain ⟨k, x⟩ := d
    have hm' := Memory.wfFrom_cons.mp hm
    rw [Memory.insert]
    split
    · exact Memory.wfFrom_cons_keeps (Memory.wfFrom_cons.mpr ⟨by omega, hm'.2⟩) hlo ha
    · split
      · next h => exact Memory.wfFrom_cons_keeps (h ▸ hm'.2.2.2) hlo ha
      · exact Memory.wfFrom_cons.mpr ⟨hm'.1, hm'.2.1, hm'.2.2.1, ih hm'.2.2.2 (by omega)⟩

/-- Read after write: the byte written where it was written, the old byte everywhere else. -/
theorem Memory.read_write {a c : Nat} {b : Byte} {m : Memory} (hm : Memory.wf font m = true) (ha : a < 4096) :
    Memory.read font (Memory.write font m a b) c = if c = a then b else Memory.read font m c := by
  simp only [Memory.write, if_pos ha]
  exact Memory.read_insert hm

/-- A write leaves every other address alone, whatever the list. -/
theorem Memory.read_write_other {a c : Nat} {b : Byte} {m : Memory} (h : c ≠ a) :
    Memory.read font (Memory.write font m a b) c = Memory.read font m c := by
  have hcons : ∀ m, Memory.read font (Memory.cons font a b m) c = Memory.read font m c := by
    intro m
    unfold Memory.cons
    split <;> simp [Memory.read, Ne.symm h]
  unfold Memory.write
  split
  · induction m with
    | nil => exact hcons []
    | cons d m ih =>
      rw [Memory.insert]
      split
      · exact hcons _
      · split
        · next e => rw [hcons, Memory.read, if_neg (by omega)]
        · rw [Memory.read, ih, Memory.read]
  · rfl

/-- Every write keeps the canonical form. -/
theorem Memory.wf_write {a : Nat} {b : Byte} {m : Memory} (hm : Memory.wf font m = true) :
    Memory.wf font (Memory.write font m a b) = true := by
  unfold Memory.write
  split
  · next ha => exact Memory.wfFrom_insert hm (Nat.zero_le a) ha
  · exact hm

/-! ### Runs of bytes -/

/-- Writing a run changes `mem` alone. -/
theorem State.writeBytes_setMem (s : State) (base : Nat) (bs : List Byte) :
    ∃ m, s.writeBytes base bs = s.setMem m := by
  induction bs generalizing s base with
  | nil => exact ⟨s.mem, rfl⟩
  | cons b bs ih =>
    obtain ⟨m, hm⟩ := ih (s.writeByte base b) (base + 1)
    exact ⟨m, by rw [State.writeBytes, hm]; rfl⟩

theorem State.writeBytes_wf (s : State) (base : Nat) (bs : List Byte) (h : s.mem.wf s.font = true) :
    (s.writeBytes base bs).mem.wf s.font = true := by
  induction bs generalizing s base with
  | nil => exact h
  | cons b bs ih => exact ih (s.writeByte base b) (base + 1) (Memory.wf_write h)

/-- Every address outside the run reads as before. -/
theorem State.readByte_writeBytes_outside (s : State) {base : Nat} {bs : List Byte} {a : Nat}
    (h : a < base ∨ base + bs.length ≤ a) : (s.writeBytes base bs).readByte a = s.readByte a := by
  induction bs generalizing s base with
  | nil => rfl
  | cons b bs ih =>
    rw [List.length_cons] at h
    rw [State.writeBytes, ih (s.writeByte base b) (by omega)]
    exact Memory.read_write_other (by omega)

/-- Every address of the run, inside the memory, reads the byte written there. -/
theorem State.readByte_writeBytes_inside (s : State) (hwf : s.mem.wf s.font = true) {base : Nat} {bs : List Byte} {k : Nat}
    (hk : k < bs.length) (ha : base + k < 4096) : (s.writeBytes base bs).readByte (base + k) = bs[k] := by
  induction bs generalizing s base k with
  | nil => exact absurd hk (Nat.not_lt_zero k)
  | cons b bs ih =>
    rw [State.writeBytes]
    cases k with
    | zero =>
      rw [State.readByte_writeBytes_outside _ (by omega)]
      exact (Memory.read_write hwf (by omega)).trans (by simp)
    | succ k =>
      have h := ih (s.writeByte base b) (Memory.wf_write hwf) (base := base + 1) (k := k) (by simpa using hk) (by omega)
      simpa [Nat.add_assoc, Nat.add_comm 1 k] using h

end Sys2Proof.Machine
end

