-- ==== Sys2Proof/Laws/Ops.lean ====
section
/-! SUPPORT. What each shared operation can do, said once (Machine/Ops.lean, Machine/Operands.lean, Machine/Fetch.lean). -/

namespace Sys2Proof.Machine

/-- The run is inside the memory: its last address is at most 4095, or it is empty (20_memory.md R74). -/
abbrev RunFits (base n : Nat) : Prop := n = 0 ∨ base + n ≤ 4096

theorem withRun_fits {base n : Nat} {s : State} {k : Result} (h : RunFits base n) : withRun base n s k = k :=
  if_neg (by omega)

theorem withRun_outside {base n : Nat} {s : State} {k : Result} (h : ¬ RunFits base n) :
    withRun base n s k = .fault (.addressOutOfBounds (max base 4096) s.pc) :=
  if_pos (by omega)

/-- A checked run that completes was inside the memory, and is what its continuation answers. -/
theorem withRun_eq_next {base n : Nat} {s t : State} {k : Result} (h : withRun base n s k = .next t) :
    RunFits base n ∧ k = .next t := by
  by_cases hf : RunFits base n
  · rw [withRun_fits hf] at h; exact ⟨hf, h⟩
  · rw [withRun_outside hf] at h; cases h

theorem State.push_room {s : State} (w : Word) (h : s.sp.val < 16) :
    s.push w = some (s.setStack (s.stack.set s.sp.val w) ⟨s.sp.val + 1, by omega⟩) := by
  simp [State.push, h]

theorem State.push_full {s : State} (w : Word) (h : s.sp.val = 16) : s.push w = none := by
  simp [State.push, h]

/-- A push that succeeds found room, stored the word at the old `sp` and raised `sp` by one. -/
theorem State.push_eq_some {s t : State} {w : Word} (h : s.push w = some t) :
    ∃ hr : s.sp.val < 16, t = s.setStack (s.stack.set s.sp.val w) ⟨s.sp.val + 1, by omega⟩ := by
  by_cases hr : s.sp.val < 16
  · exact ⟨hr, (Option.some.inj ((State.push_room w hr).symm.trans h)).symm⟩
  · simp [State.push, hr] at h

theorem State.pop_some {s : State} (h : 0 < s.sp.val) :
    s.pop = some (s.stack[s.sp.val - 1], s.setStack s.stack ⟨s.sp.val - 1, by omega⟩) := by
  simp [State.pop, h]

theorem State.pop_empty {s : State} (h : s.sp.val = 0) : s.pop = none := by
  simp [State.pop, h]

/-- A pop that succeeds found an entry, answers it and lowers `sp` by one. -/
theorem State.pop_eq_some {s t : State} {w : Word} (h : s.pop = some (w, t)) :
    ∃ hp : 0 < s.sp.val, w = s.stack[s.sp.val - 1] ∧ t = s.setStack s.stack ⟨s.sp.val - 1, by omega⟩ := by
  by_cases hp : 0 < s.sp.val
  · rw [State.pop_some hp] at h
    cases h
    exact ⟨hp, rfl, rfl⟩
  · simp [State.pop, hp] at h

theorem withKey_inside {x : Reg} {s : State} {k : Reg → Result} (h : (s.getV x).toNat < 16) :
    withKey x s k = k ⟨(s.getV x).toNat, h⟩ :=
  dif_pos h

theorem withKey_outside {x : Reg} {s : State} {k : Reg → Result} (h : ¬ (s.getV x).toNat < 16) :
    withKey x s k = .fault (.keyIndexOutOfRange (s.getV x) s.pc) :=
  dif_neg h

/-! ### Completion and fetch -/

@[simp] theorem complete_next (t : State) : complete (.next t) = .next t.countCycle := rfl
@[simp] theorem complete_fault (f : Fault) : complete (.fault f) = .fault f := rfl
@[simp] theorem complete_refused (r : Refusal) : complete (.refused r) = .refused r := rfl

theorem complete_eq_next {r : Result} {u : State} (h : complete r = .next u) : ∃ t, r = .next t ∧ u = t.countCycle := by
  cases r with
  | next t => exact ⟨t, rfl, by simpa using h.symm⟩
  | fault f => simp at h
  | refused q => simp at h

theorem withInstr_known {s : State} {i : Instr} {k : Instr → Result} (hpc : s.pc.toNat ≤ 4094)
    (hi : decodeWord (fetchWord s) = some i) : withInstr s k = k i := by
  rw [withInstr, withRun_fits (by omega), hi]

theorem withInstr_unknown {s : State} {k : Instr → Result} (hpc : s.pc.toNat ≤ 4094)
    (hi : decodeWord (fetchWord s) = none) : withInstr s k = .fault (.unknownOpcode (fetchWord s) s.pc) := by
  rw [withInstr, withRun_fits (by omega), hi]
  rfl

theorem withInstr_outside {s : State} {k : Instr → Result} (hpc : 4094 < s.pc.toNat) :
    withInstr s k = .fault (.addressOutOfBounds (max s.pc.toNat 4096) s.pc) :=
  withRun_outside (by omega)

/-- A STEP that completes fetched inside the memory, decoded an instruction, ran it and counted. -/
theorem step_eq_next {s u : State} (h : step s = .next u) :
    s.pc.toNat ≤ 4094 ∧ ∃ i t, decodeWord (fetchWord s) = some i ∧ exec i s = .next t ∧ u = t.countCycle := by
  obtain ⟨hf, h⟩ := withRun_eq_next h
  refine ⟨by omega, ?_⟩
  cases hd : decodeWord (fetchWord s) with
  | none => rw [hd] at h; cases h
  | some i =>
    rw [hd] at h
    obtain ⟨t, ht, hu⟩ := complete_eq_next h
    exact ⟨i, t, rfl, ht, hu⟩

theorem stepWith_eq_next {rand : Byte} {s u : State} (h : stepWith rand s = .next u) :
    s.pc.toNat ≤ 4094 ∧ ∃ i t, decodeWord (fetchWord s) = some i ∧ execWith rand i s = .next t ∧ u = t.countCycle := by
  obtain ⟨hf, h⟩ := withRun_eq_next h
  refine ⟨by omega, ?_⟩
  cases hd : decodeWord (fetchWord s) with
  | none => rw [hd] at h; cases h
  | some i =>
    rw [hd] at h
    obtain ⟨t, ht, hu⟩ := complete_eq_next h
    exact ⟨i, t, rfl, ht, hu⟩

/-- The free `rand` of a state gives the instruction the effect `exec` gives it. -/
theorem execWith_randomByte (i : Instr) (s : State) : execWith (Config.randomByte s.draws) i s = exec i s := by
  cases i <;> rfl

/-- STEP with the free `rand` of the state is `step`. -/
theorem stepWith_randomByte (s : State) : stepWith (Config.randomByte s.draws) s = step s := by
  simp [stepWith, step, execWith_randomByte]

/-! ### Operand lists -/

/-- `V0 .. V[n-1]`, one byte a register. -/
theorem firstRegs_length (s : State) {n : Nat} (h : n ≤ 16) : (firstRegs s n).length = n := by
  simp [firstRegs, h]

theorem firstRegs_get (s : State) {n k : Nat} (hk : k < 16) (h : k < (firstRegs s n).length) :
    (firstRegs s n)[k] = s.getV ⟨k, hk⟩ := by
  simp [firstRegs]

/-- Loading registers changes V alone. -/
theorem loadRegs_setV (s : State) (n : Nat) : ∃ v, loadRegs s n = { s with v := v } := by
  induction n with
  | zero => exact ⟨s.v, rfl⟩
  | succ n ih =>
    obtain ⟨v, hv⟩ := ih
    exact ⟨_, by rw [loadRegs, hv]; rfl⟩

/-- The first `n` registers hold the bytes at `I ..`, the others are as before. -/
theorem loadRegs_getV (s : State) {n : Nat} (hn : n ≤ 16) (j : Reg) :
    (loadRegs s n).getV j = if j.val < n then s.readByte (indexAddr s j.val) else s.getV j := by
  induction n with
  | zero => rfl
  | succ n ih =>
    have hval : (Fin.ofNat 16 n).val = n := Nat.mod_eq_of_lt (by omega)
    rw [loadRegs, State.getV_setV, ih (by omega)]
    by_cases h : j = Fin.ofNat 16 n
    · subst h; rw [if_pos rfl, hval, if_pos (by omega)]
    · have : j.val ≠ n := fun e => h (Fin.ext (e.trans hval.symm))
      rw [if_neg h]
      by_cases hlt : j.val < n
      · rw [if_pos hlt, if_pos (by omega)]
      · rw [if_neg hlt, if_neg (by omega)]

/-- No key is pressed exactly when there is no least pressed key. -/
theorem leastPressed_none {s : State} : leastPressed s = none ↔ ∀ k, s.getKey k = false := by
  simp [leastPressed]

/-- The least pressed key is pressed. -/
theorem leastPressed_pressed {s : State} {k : Reg} (h : leastPressed s = some k) : s.getKey k = true :=
  List.find?_some h

end Sys2Proof.Machine
end

