-- ==== Sys2Proof/Laws/Frames.lean ====
section
/-! SUPPORT. The frame of each shared update, and how frames compose (Safety.lean's `SameExcept`). -/

namespace Sys2Proof.Machine

theorem SameExcept.refl (ps : List Part) (s : State) : SameExcept ps s s := by
  intro p _
  cases p <;> simp [Part.Same]

theorem Part.Same.trans {s t u : State} {p : Part} (h : Part.Same s t p) (h' : Part.Same t u p) : Part.Same s u p := by
  cases p with
  | v => exact fun j => (h' j).trans (h j)
  | fb => exact fun x y => (h' x y).trans (h x y)
  | key => exact fun k => (h' k).trans (h k)
  | mem => exact fun a => (h' a).trans (h a)
  | params => exact ⟨h'.1.trans h.1, h'.2.trans h.2⟩
  | i | pc | stack | sp | delay | sound | cycleCount | programSize | draws => exact Eq.trans h' h

theorem SameExcept.mono {ps qs : List Part} {s t : State} (h : SameExcept ps s t) (hpq : ∀ p ∈ ps, p ∈ qs) :
    SameExcept qs s t := fun p hp => h p fun hm => hp (hpq p hm)

theorem SameExcept.trans {ps : List Part} {s t u : State} (h : SameExcept ps s t) (h' : SameExcept ps t u) :
    SameExcept ps s u := fun p hp => (h p hp).trans (h' p hp)

/-- Two updates in a row change what either changes. -/
theorem SameExcept.append {ps qs : List Part} {s t u : State} (h : SameExcept ps s t) (h' : SameExcept qs t u) :
    SameExcept (ps ++ qs) s u :=
  (h.mono fun _ hp => List.mem_append_left _ hp).trans (h'.mono fun _ hp => List.mem_append_right _ hp)

theorem sameExcept_setV (s : State) (x : Reg) (b : Byte) : SameExcept [.v] s (s.setV x b) := by
  intro p hp
  cases p <;> simp [Part.Same] at hp ⊢

theorem sameExcept_setI (s : State) (w : Word) : SameExcept [.i] s (s.setI w) := by
  intro p hp
  cases p <;> simp [Part.Same] at hp ⊢

theorem sameExcept_setPc (s : State) (w : Word) : SameExcept [.pc] s (s.setPc w) := by
  intro p hp
  cases p <;> simp [Part.Same] at hp ⊢

theorem sameExcept_setStack (s : State) (k : Vector Word 16) (n : Fin 17) :
    SameExcept [.stack, .sp] s (s.setStack k n) := by
  intro p hp
  cases p <;> simp [Part.Same] at hp ⊢

/-- Moving `sp` alone. -/
theorem sameExcept_setSp (s : State) (n : Fin 17) : SameExcept [.sp] s (s.setStack s.stack n) := by
  intro p hp
  cases p <;> simp [Part.Same] at hp ⊢

theorem sameExcept_setDelay (s : State) (b : Byte) : SameExcept [.delay] s (s.setDelay b) := by
  intro p hp
  cases p <;> simp [Part.Same] at hp ⊢

theorem sameExcept_setSound (s : State) (b : Byte) : SameExcept [.sound] s (s.setSound b) := by
  intro p hp
  cases p <;> simp [Part.Same] at hp ⊢

theorem sameExcept_setFb (s : State) (f : Framebuffer) : SameExcept [.fb] s (s.setFb f) := by
  intro p hp
  cases p <;> simp [Part.Same] at hp ⊢

theorem sameExcept_setKey (s : State) (k : Reg) (b : Bool) : SameExcept [.key] s (s.setKey k b) := by
  intro p hp
  cases p <;> simp [Part.Same] at hp ⊢

theorem sameExcept_setMem (s : State) (m : Memory) : SameExcept [.mem] s (s.setMem m) := by
  intro p hp
  cases p <;> simp [Part.Same] at hp ⊢

theorem sameExcept_setLoaded (s : State) (n : Fin 3585) : SameExcept [.programSize, .cycleCount] s (s.setLoaded n) := by
  intro p hp
  cases p <;> simp [Part.Same] at hp ⊢

theorem sameExcept_countCycle (s : State) : SameExcept [.cycleCount, .draws] s s.countCycle := by
  intro p hp
  cases p <;> simp [Part.Same] at hp ⊢

theorem sameExcept_writeBytes (s : State) (base : Nat) (bs : List Byte) : SameExcept [.mem] s (s.writeBytes base bs) := by
  obtain ⟨m, hm⟩ := s.writeBytes_setMem base bs
  exact hm ▸ sameExcept_setMem s m

theorem sameExcept_loadRegs (s : State) (n : Nat) : SameExcept [.v] s (loadRegs s n) := by
  induction n with
  | zero => exact .refl _ s
  | succ n ih => exact ih.trans (sameExcept_setV _ _ _)

end Sys2Proof.Machine
end

