-- ==== Sys2Proof/Laws/PerInstr.lean ====
section
/-! SUPPORT. A fact about every instruction as syntax, one lemma per constructor: the high digit of its word (30_encoding.md
R91, R95). -/

namespace Sys2Proof

/-- `op[15:12]` of the instruction's pattern in R95. -/
def Laws.patternGroup : Instr → Nat
  | .cls | .ret => 0x0
  | .jpNnn _ => 0x1
  | .callNnn _ => 0x2
  | .seVxNn _ _ => 0x3
  | .sneVxNn _ _ => 0x4
  | .seVxVy _ _ => 0x5
  | .ldVxNn _ _ => 0x6
  | .addVxNn _ _ => 0x7
  | .ldVxVy _ _ | .orVxVy _ _ | .andVxVy _ _ | .xorVxVy _ _ | .addVxVy _ _ => 0x8
  | .subVxVy _ _ | .shrVx _ _ | .subnVxVy _ _ | .shlVx _ _ => 0x8
  | .sneVxVy _ _ => 0x9
  | .ldINnn _ => 0xA
  | .jpV0Nnn _ => 0xB
  | .rndVxNn _ _ => 0xC
  | .drwVxVyN _ _ _ => 0xD
  | .skpVx _ | .sknpVx _ => 0xE
  | .ldVxDt _ | .ldVxK _ | .ldDtVx _ | .ldStVx _ | .addIVx _ => 0xF
  | .ldFVx _ | .ldBVx _ | .ldMemIVx _ | .ldVxMemI _ => 0xF

/-- The word of a well-formed instruction lies in its pattern's group. -/
def Laws.EncodedGroup.Statement (i : Instr) : Prop :=
  i.wellFormed = true → opGroup (encodeWord i) = Laws.patternGroup i

theorem Laws.group_A {g : Nat} (hg : g < 16) {nnn : Word} (h : addressFits nnn = true) : opGroup (encodeA g nnn) = g := by
  have h : nnn.toNat < 4096 := of_decide_eq_true h
  rw [opGroup, encodeA_toNat hg h]
  omega

theorem Laws.group_XI {g : Nat} (hg : g < 16) (x : Reg) (nn : Byte) : opGroup (encodeXI g x nn) = g := by
  have := nn.isLt
  rw [opGroup, encodeXI_toNat hg]
  omega

theorem Laws.group_XYN {g n : Nat} (hg : g < 16) (hn : n < 16) (x y : Reg) : opGroup (encodeXYN g x y n) = g := by
  rw [opGroup, encodeXYN_toNat hg hn]
  omega

theorem Laws.group_XF {g f : Nat} (hg : g < 16) (hf : f < 256) (x : Reg) : opGroup (encodeXF g x f) = g := by
  rw [opGroup, encodeXF_toNat hg hf]
  omega

theorem Laws.EncodedGroup.cls : Statement .cls := fun _ => by decide
theorem Laws.EncodedGroup.ret : Statement .ret := fun _ => by decide
theorem Laws.EncodedGroup.jpNnn (nnn : Word) : Statement (.jpNnn nnn) := fun h => group_A (by omega) h
theorem Laws.EncodedGroup.callNnn (nnn : Word) : Statement (.callNnn nnn) := fun h => group_A (by omega) h
theorem Laws.EncodedGroup.seVxNn (x : Reg) (nn : Byte) : Statement (.seVxNn x nn) := fun _ => group_XI (by omega) x nn
theorem Laws.EncodedGroup.sneVxNn (x : Reg) (nn : Byte) : Statement (.sneVxNn x nn) := fun _ => group_XI (by omega) x nn
theorem Laws.EncodedGroup.seVxVy (x y : Reg) : Statement (.seVxVy x y) := fun _ => group_XYN (by omega) (by omega) x y
theorem Laws.EncodedGroup.ldVxNn (x : Reg) (nn : Byte) : Statement (.ldVxNn x nn) := fun _ => group_XI (by omega) x nn
theorem Laws.EncodedGroup.addVxNn (x : Reg) (nn : Byte) : Statement (.addVxNn x nn) := fun _ => group_XI (by omega) x nn
theorem Laws.EncodedGroup.ldVxVy (x y : Reg) : Statement (.ldVxVy x y) := fun _ => group_XYN (by omega) (by omega) x y
theorem Laws.EncodedGroup.orVxVy (x y : Reg) : Statement (.orVxVy x y) := fun _ => group_XYN (by omega) (by omega) x y
theorem Laws.EncodedGroup.andVxVy (x y : Reg) : Statement (.andVxVy x y) := fun _ => group_XYN (by omega) (by omega) x y
theorem Laws.EncodedGroup.xorVxVy (x y : Reg) : Statement (.xorVxVy x y) := fun _ => group_XYN (by omega) (by omega) x y
theorem Laws.EncodedGroup.addVxVy (x y : Reg) : Statement (.addVxVy x y) := fun _ => group_XYN (by omega) (by omega) x y
theorem Laws.EncodedGroup.subVxVy (x y : Reg) : Statement (.subVxVy x y) := fun _ => group_XYN (by omega) (by omega) x y
theorem Laws.EncodedGroup.shrVx (x y : Reg) : Statement (.shrVx x y) := fun _ => group_XYN (by omega) (by omega) x y
theorem Laws.EncodedGroup.subnVxVy (x y : Reg) : Statement (.subnVxVy x y) := fun _ => group_XYN (by omega) (by omega) x y
theorem Laws.EncodedGroup.shlVx (x y : Reg) : Statement (.shlVx x y) := fun _ => group_XYN (by omega) (by omega) x y
theorem Laws.EncodedGroup.sneVxVy (x y : Reg) : Statement (.sneVxVy x y) := fun _ => group_XYN (by omega) (by omega) x y
theorem Laws.EncodedGroup.ldINnn (nnn : Word) : Statement (.ldINnn nnn) := fun h => group_A (by omega) h
theorem Laws.EncodedGroup.jpV0Nnn (nnn : Word) : Statement (.jpV0Nnn nnn) := fun h => group_A (by omega) h
theorem Laws.EncodedGroup.rndVxNn (x : Reg) (nn : Byte) : Statement (.rndVxNn x nn) := fun _ => group_XI (by omega) x nn
theorem Laws.EncodedGroup.drwVxVyN (x y : Reg) (n : Nat) : Statement (.drwVxVyN x y n) :=
  fun h => group_XYN (by omega) (of_decide_eq_true h) x y
theorem Laws.EncodedGroup.skpVx (x : Reg) : Statement (.skpVx x) := fun _ => group_XF (by omega) (by omega) x
theorem Laws.EncodedGroup.sknpVx (x : Reg) : Statement (.sknpVx x) := fun _ => group_XF (by omega) (by omega) x
theorem Laws.EncodedGroup.ldVxDt (x : Reg) : Statement (.ldVxDt x) := fun _ => group_XF (by omega) (by omega) x
theorem Laws.EncodedGroup.ldVxK (x : Reg) : Statement (.ldVxK x) := fun _ => group_XF (by omega) (by omega) x
theorem Laws.EncodedGroup.ldDtVx (x : Reg) : Statement (.ldDtVx x) := fun _ => group_XF (by omega) (by omega) x
theorem Laws.EncodedGroup.ldStVx (x : Reg) : Statement (.ldStVx x) := fun _ => group_XF (by omega) (by omega) x
theorem Laws.EncodedGroup.addIVx (x : Reg) : Statement (.addIVx x) := fun _ => group_XF (by omega) (by omega) x
theorem Laws.EncodedGroup.ldFVx (x : Reg) : Statement (.ldFVx x) := fun _ => group_XF (by omega) (by omega) x
theorem Laws.EncodedGroup.ldBVx (x : Reg) : Statement (.ldBVx x) := fun _ => group_XF (by omega) (by omega) x
theorem Laws.EncodedGroup.ldMemIVx (x : Reg) : Statement (.ldMemIVx x) := fun _ => group_XF (by omega) (by omega) x
theorem Laws.EncodedGroup.ldVxMemI (x : Reg) : Statement (.ldVxMemI x) := fun _ => group_XF (by omega) (by omega) x

end Sys2Proof
end

