-- ==== Sys2Proof/Laws/Transactions.lean ====
section
/-! SUPPORT. What each transaction answers (Machine/Transactions.lean), one equation a case. -/

namespace Sys2Proof.Machine

theorem transact_step_next {rand : Byte} {s t : State} (h : stepWith rand s = .next t) :
    transact (.step rand) s = (t, .stepped t.cycleCount) := by
  simp [transact, h]

theorem transact_step_fault {rand : Byte} {s : State} {f : Fault} (h : stepWith rand s = .fault f) :
    transact (.step rand) s = (s, .stepFailed f) := by
  simp [transact, h]

/-- A STEP leaves the state it completed with, or the state it started from. -/
theorem transact_step_state (rand : Byte) (s : State) :
    (∃ t, stepWith rand s = .next t ∧ (transact (.step rand) s).1 = t) ∨ (transact (.step rand) s).1 = s := by
  cases h : stepWith rand s <;> simp [transact, h]

theorem transact_load_fits {bytes : List Byte} (s : State) (h : bytes.length ≤ 3584) :
    transact (.load bytes) s =
      (loadImage bytes ⟨bytes.length, Nat.lt_succ_of_le h⟩ (loadFont s), .loaded bytes.length) := by
  simp [transact, load, h]

theorem transact_load_tooLarge {bytes : List Byte} (s : State) (h : ¬ bytes.length ≤ 3584) :
    transact (.load bytes) s = (loadFont s, .loadFailed .tooLarge) := by
  simp [transact, load, h]

/-- A given `rand` matters to CXNN alone: any other effect is `exec`'s. -/
theorem execWith_cases (rand : Byte) (i : Instr) (s : State) :
    execWith rand i s = exec i s ∨
      ∃ x nn, i = .rndVxNn x nn ∧ execWith rand i s = .next (s.setV x (rand &&& nn)).advance := by
  cases i with
  | rndVxNn x nn => exact .inr ⟨x, nn, rfl, rfl⟩
  | _ => exact .inl rfl

theorem stepWith_known {rand : Byte} {s : State} {i : Instr} (hpc : s.pc.toNat ≤ 4094)
    (hi : decodeWord (fetchWord s) = some i) : stepWith rand s = complete (execWith rand i s) :=
  withInstr_known hpc hi

end Sys2Proof.Machine
end

