-- ==== Sys2Proof/Tests/Slice0.lean ====
section
/-! SUPPORT. Tests. Expected results come from the spec: S, T, K, A, M, G, X, Z name the vectors of 95_test_vectors.md, whose
start state is the state after CONSTRUCT with `pc = 0x200`. -/

namespace Sys2Proof.Tests

open Sys2Proof.Machine

/-! ## WellFormed: each check refuses a term that has no encoding -/

theorem test_wellFormed_refuses_wide_address :
    (Instr.jpNnn 0x1000).wellFormed = false ∧ (Instr.callNnn 0x1000).wellFormed = false ∧
    (Instr.ldINnn 0x1000).wellFormed = false ∧ (Instr.jpV0Nnn 0xFFFF).wellFormed = false := by decide

theorem test_wellFormed_refuses_sixteen_rows : (Instr.drwVxVyN 0 0 16).wellFormed = false := by decide

theorem test_wellFormed_accepts_widest :
    (Instr.jpNnn 0xFFF).wellFormed = true ∧ (Instr.drwVxVyN 15 15 15).wellFormed = true ∧
    (Instr.seVxNn 15 0xFF).wellFormed = true := by decide

/-! ## Decode: one word a constructor, written bit by bit from R92 and R95 with distinct operands -/

theorem test_decode_control :
    decodeWord 0b0000000011101110 = some .ret ∧                      -- 0000 0000 1110 1110
    decodeWord 0b0001101010111100 = some (.jpNnn 0xABC) ∧            -- 0001 n=1010 1011 1100 (S12)
    decodeWord 0b0010001001000110 = some (.callNnn 0x246) ∧          -- 0010 n=0010 0100 0110
    decodeWord 0b1011111100000001 = some (.jpV0Nnn 0xF01) := by decide

theorem test_decode_skips :
    decodeWord 0b0011101000010010 = some (.seVxNn 0xA 0x12) ∧        -- 0011 x=1010 k=0001 0010
    decodeWord 0b0100010111110000 = some (.sneVxNn 0x5 0xF0) ∧       -- 0100 x=0101 k=1111 0000
    decodeWord 0b0101000100100000 = some (.seVxVy 0x1 0x2) ∧         -- 0101 x=0001 y=0010 0000
    decodeWord 0b1001110000110000 = some (.sneVxVy 0xC 0x3) ∧        -- 1001 x=1100 y=0011 0000
    decodeWord 0b1110000110011110 = some (.skpVx 0x1) ∧              -- 1110 x=0001 1001 1110
    decodeWord 0b1110100010100001 = some (.sknpVx 0x8) := by decide

theorem test_decode_loads_and_logic :
    decodeWord 0b0110101000110111 = some (.ldVxNn 0xA 0x37) ∧        -- 0110 x=1010 k=0011 0111
    decodeWord 0b0111001100000001 = some (.addVxNn 0x3 0x01) ∧       -- 0111 x=0011 k=0000 0001
    decodeWord 0b1000000100100000 = some (.ldVxVy 0x1 0x2) ∧         -- 1000 x=0001 y=0010 0000
    decodeWord 0b1000000100100001 = some (.orVxVy 0x1 0x2) ∧         -- ... 0001
    decodeWord 0b1000000100100010 = some (.andVxVy 0x1 0x2) ∧        -- ... 0010
    decodeWord 0b1000000100100011 = some (.xorVxVy 0x1 0x2) := by decide

theorem test_decode_arithmetic :
    decodeWord 0b1000000100100100 = some (.addVxVy 0x1 0x2) ∧        -- 1000 x=0001 y=0010 0100
    decodeWord 0b1000000100100101 = some (.subVxVy 0x1 0x2) ∧        -- ... 0101
    decodeWord 0b1000000100100110 = some (.shrVx 0x1 0x2) ∧          -- ... 0110
    decodeWord 0b1000000100100111 = some (.subnVxVy 0x1 0x2) ∧       -- ... 0111
    decodeWord 0b1000000100101110 = some (.shlVx 0x1 0x2) ∧          -- ... 1110
    decodeWord 0b1100000100001111 = some (.rndVxNn 0x1 0x0F) := by decide

theorem test_decode_index_and_memory :
    decodeWord 0b1010000100100011 = some (.ldINnn 0x123) ∧           -- 1010 n=0001 0010 0011
    decodeWord 0b1111000100011110 = some (.addIVx 0x1) ∧             -- 1111 x=0001 0001 1110
    decodeWord 0b1111011100101001 = some (.ldFVx 0x7) ∧              -- 1111 x=0111 0010 1001
    decodeWord 0b1111110000110011 = some (.ldBVx 0xC) ∧              -- 1111 x=1100 0011 0011
    decodeWord 0b1111001001010101 = some (.ldMemIVx 0x2) ∧           -- 1111 x=0010 0101 0101
    decodeWord 0b1111001001100101 = some (.ldVxMemI 0x2) := by decide

theorem test_decode_display :
    decodeWord 0b0000000011100000 = some .cls ∧                      -- 0000 0000 1110 0000
    decodeWord 0b1101000100100101 = some (.drwVxVyN 0x1 0x2 0x5) := by decide

theorem test_decode_timers_and_keypad :
    decodeWord 0b1111001100000111 = some (.ldVxDt 0x3) ∧             -- 1111 x=0011 0000 0111
    decodeWord 0b1111001000001010 = some (.ldVxK 0x2) ∧              -- 1111 x=0010 0000 1010
    decodeWord 0b1111100000010101 = some (.ldDtVx 0x8) ∧             -- 1111 x=1000 0001 0101
    decodeWord 0b1111010000011000 = some (.ldStVx 0x4) := by decide  -- 1111 x=0100 0001 1000

/-- S9, K8, K11, K18, A42, A43, M25, Z1, Z2, Z3, and the neighbours of the other patterns. -/
theorem test_decode_unknown :
    [0x5001, 0x5121, 0x9121, 0xE19F, 0x8128, 0x812F, 0xF156, 0x0000, 0x00E1, 0x01E0, 0x10000 + 0x00EF, 0x8129, 0x812D,
      0xE1A2, 0xF00B, 0xFF66].map (fun w => decodeWord (BitVec.ofNat 16 w)) = List.replicate 16 none := by decide

/-- Two bytes, the high one first (R64); bytes after them are left; one byte is too short. -/
theorem test_decode_bytes :
    decode [0x1A, 0xBC, 0x77] = .instr (.jpNnn 0xABC) [0x77] ∧ decode [0x1A] = .tooShort ∧
    decode [0x50, 0x01] = .unknownOpcode 0x5001 ∧ encode (.jpNnn 0xABC) = [0x1A, 0xBC] := by decide

theorem test_decodeTableWord :
    decodeTableWord 16 0x8124 = some (.addVxVy 1 2) ∧ decodeTableWord 16 0x00EE = some .ret ∧
    decodeTableWord 16 0x5001 = none := by decide

/-- No word selects two rows of R95 (R94), by the masks and matches of the table. -/
theorem test_rows_do_not_overlap :
    opcodeRows.length = 34 ∧
    opcodeRows.Pairwise fun r q => r.pattern &&& (r.mask &&& q.mask) ≠ q.pattern &&& (r.mask &&& q.mask) := by decide

/-- The listing of program P3 assembles to its image. -/
theorem test_P3_image :
    assemble [.instr (.ldVxNn 0 60), .instr (.ldVxNn 1 31), .instr (.ldINnn 0x20C), .instr (.drwVxVyN 0 1 2),
      .instr (.drwVxVyN 0 1 2), .instr (.jpNnn 0x20A), .db [0xFF, 0x81]] =
    [0x60, 0x3C, 0x61, 0x1F, 0xA2, 0x0C, 0xD0, 0x12, 0xD0, 0x12, 0x12, 0x0A, 0xFF, 0x81] := by decide

theorem test_instruction_text :
    (Instr.drwVxVyN 0 1 2).text = "DRW V0, V1, 0x2" ∧ (Instr.ldMemIVx 1).text = "LD [I], V1" ∧
    (Instr.ldINnn 0x20C).text = "LD I, 0x20C" := by decide

/-! ## Helpers: small states and what one step gives -/

/-- Reset with the word `w` at 0x200. -/
def at0 (w : Nat) : State := State.reset.withFetchWord 16 w

/-- The next state of a result, if it is one. -/
def nextOf : Result → Option State
  | .next t => some t
  | .fault _ => none
  | .refused _ => none

/-- The error of a result, if it is one. -/
def faultOf : Result → Option Fault
  | .next _ => none
  | .fault f => some f
  | .refused _ => none

/-- What `f` reads in the state one step after `s`. -/
def after {α : Type} (s : State) (f : State → α) : Option α := (nextOf (step s)).map f

/-- `sp` and `stack[0]` set. -/
def withStack (s : State) (sp : Fin 17) (entry0 : Word) : State := s.setStack (s.stack.set 0 entry0) sp

/-- The pixels that are on, of those in row `y`. -/
def litColumns (s : State) (y : Fin 32) : List Nat := ((List.finRange 64).filter fun x => s.pixel x y).map Fin.val

/-! ## Control transfer -/

theorem test_T1_jump : after (at0 0x1ABC) (·.pc) = some 0x0ABC := by decide
theorem test_T5_call : after (at0 0x2300) (fun t => (t.stack[0], t.sp, t.pc)) = some (0x0202, 1, 0x0300) := by decide
theorem test_T6_call_overflow : faultOf (step (withStack (at0 0x2300) 16 0)) = some .stackOverflow := by decide
theorem test_T8_return : after (withStack (at0 0x00EE) 1 0x0456) (fun t => (t.pc, t.sp)) = some (0x0456, 0) := by decide
theorem test_T9_return_underflow : faultOf (step (at0 0x00EE)) = some .stackUnderflow := by decide
theorem test_T11_indexed_jump : after ((at0 0xBFFF).setV 0 0xFF) (·.pc) = some 0x10FE := by decide
theorem test_T12_indexed_jump_reads_V0 : after ((at0 0xB300).setV 3 0x40) (·.pc) = some 0x0300 := by decide

/-! ## Skips -/

theorem test_K1_K2_se :
    after ((at0 0x3A12).setV 10 0x12) (·.pc) = some 0x204 ∧ after ((at0 0x3A12).setV 10 0x13) (·.pc) = some 0x202 := by decide
theorem test_K3_K4_sne :
    after ((at0 0x4A12).setV 10 0x12) (·.pc) = some 0x202 ∧ after ((at0 0x4A12).setV 10 0x13) (·.pc) = some 0x204 := by decide
theorem test_K5_K6_se_register :
    after (((at0 0x5120).setV 1 7).setV 2 7) (·.pc) = some 0x204 ∧
    after (((at0 0x5120).setV 1 7).setV 2 8) (·.pc) = some 0x202 := by decide
theorem test_K9_K10_sne_register :
    after (((at0 0x9120).setV 1 7).setV 2 8) (·.pc) = some 0x204 ∧ after (at0 0x9110) (·.pc) = some 0x202 := by decide
theorem test_K12_K13_key_skip :
    after (((at0 0xE19E).setV 1 5).setKey 5 true) (·.pc) = some 0x204 ∧
    after ((at0 0xE19E).setV 1 5) (·.pc) = some 0x202 := by decide
theorem test_K14_K15_key_up_skip :
    after ((at0 0xE1A1).setV 1 5) (·.pc) = some 0x204 ∧
    after (((at0 0xE1A1).setV 1 5).setKey 5 true) (·.pc) = some 0x202 := by decide
theorem test_K16_K17_key_index :
    faultOf (step ((at0 0xE19E).setV 1 0x10)) = some (.keyIndexOutOfRange 0x10 0x200) ∧
    faultOf (step ((at0 0xE1A1).setV 1 0xFF)) = some (.keyIndexOutOfRange 0xFF 0x200) := by decide
theorem test_K20_skip_past_the_end :
    after ((State.reset.setPc 0xFFE).withFetchWord 16 0x3000) (·.pc) = some 0x1002 := by decide

/-! ## Register loads and ALU: `V[x]` and VF after one step -/

/-- `(V[x], VF)` one step after the word `w` with `V1 = a`, `V2 = b`, `VF = f`. -/
def alu (w : Nat) (a b f : Byte) (x : Reg) : Option (Byte × Byte) :=
  after ((((at0 w).setV 1 a).setV 2 b).setV VF f) fun t => (t.getV x, t.getV VF)

theorem test_A1_load : alu 0x6A37 0 0 0 10 = some (0x37, 0) := by decide
theorem test_S2_A4_add_immediate : alu 0x7101 0xFF 0 0x55 1 = some (0, 0x55) ∧ alu 0x7F01 0 0 0xFF VF = some (0, 0) := by
  decide
theorem test_A5_move : alu 0x8120 0 0x5A 0 1 = some (0x5A, 0) := by decide
theorem test_A6_or : alu 0x8121 0x0F 0xF0 0x55 1 = some (0xFF, 0x55) := by decide
theorem test_A7_and : alu 0x8122 0x0F 0xF0 0x55 1 = some (0x00, 0x55) := by decide
theorem test_A8_xor : alu 0x8123 0xFF 0x0F 0x55 1 = some (0xF0, 0x55) := by decide
theorem test_S3_A12_add :
    alu 0x8124 0xFF 0x01 0 1 = some (0, 1) ∧ alu 0x8124 1 1 0 1 = some (2, 0) ∧ alu 0x8124 0x7F 0x80 0 1 = some (0xFF, 0) := by
  decide
theorem test_A14_A15_A16_A17_add_with_VF :
    alu 0x8F14 0x20 0 0x10 VF = some (0, 0) ∧ alu 0x8F14 1 0 0xFF VF = some (1, 1) ∧
    alu 0x81F4 0xFF 0 1 1 = some (0, 1) ∧ alu 0x8FF4 0 0 0x90 VF = some (1, 1) := by decide
theorem test_S4_A18_sub :
    alu 0x8125 5 3 0 1 = some (2, 1) ∧ alu 0x8125 1 3 0 1 = some (0xFE, 0) ∧ alu 0x8125 7 7 1 1 = some (0, 0) := by decide
theorem test_A22_A23_sub_with_VF : alu 0x8F15 3 0 9 VF = some (0xFE, 0xFE) ∧ alu 0x81F5 9 0 3 1 = some (8, 1) := by decide
theorem test_A24_A25_shr : alu 0x8126 5 0xAA 0 1 = some (2, 1) ∧ alu 0x8126 4 0xAA 1 1 = some (2, 0) := by decide
theorem test_A28_A37_A38_shifts_of_VF :
    alu 0x8F26 0 0 5 VF = some (0, 0) ∧ alu 0x8F2E 0 0 0x81 VF = some (2, 2) ∧ alu 0x8F2E 0 0 0x40 VF = some (0, 0) := by decide
theorem test_A29_A30_A31_subn :
    alu 0x8127 3 5 0 1 = some (2, 1) ∧ alu 0x8127 5 3 1 1 = some (0xFE, 0) ∧ alu 0x8127 5 5 1 1 = some (0, 0) := by decide
theorem test_A32_A33_subn_with_VF : alu 0x8F27 0 5 3 VF = some (4, 4) ∧ alu 0x81F7 3 0 5 1 = some (0xFE, 1) := by decide
theorem test_A34_A35_shl : alu 0x812E 0x81 0xAA 0 1 = some (2, 1) ∧ alu 0x812E 0x40 0 1 1 = some (0x80, 0) := by decide
theorem test_A39_rnd : (nextOf (stepWith 0xA7 (at0 0xC10F))).map (·.getV 1) = some 0x07 := by decide
theorem test_A40_rnd_of_zero_mask (rand : Byte) : (nextOf (stepWith rand (at0 0xC100))).map (·.getV 1) = some 0 := by
  revert rand
  decide

/-! ## Index and memory -/

theorem test_M1_load_index : after (at0 0xA123) (·.i) = some 0x0123 := by decide
theorem test_M3_M4_add_index :
    after ((((at0 0xF11E).setI 0xFFF).setV 1 1).setV VF 0x55) (fun t => (t.i, t.getV VF)) = some (0x1000, 0x55) ∧
    after (((at0 0xF11E).setI 0xFFFF).setV 1 2) (·.i) = some 1 := by decide
theorem test_M5_M8_glyph :
    after ((at0 0xF129).setV 1 0x0A) (·.i) = some 0x32 ∧ after ((at0 0xF129).setV 1 0xFF) (·.i) = some 0x4FB := by decide
theorem test_M9_M14_bcd :
    after (((at0 0xF033).setI 0x300).setV 0 0xEA) (fun t => [0x300, 0x301, 0x302].map t.readByte) = some [2, 3, 4] ∧
    after (((at0 0xF033).setI 0xFFD).setV 0 0x7B) (fun t => [0xFFD, 0xFFE, 0xFFF].map t.readByte) = some [1, 2, 3] := by decide
theorem test_M15_bcd_outside :
    faultOf (step ((at0 0xF033).setI 0xFFE)) = some (.addressOutOfBounds 0x1000 0x200) := by decide
theorem test_M16_store_registers :
    after (((((at0 0xF255).setI 0x400).setV 0 0x11).setV 1 0x22).setV 2 0x33)
      (fun t => ([0x400, 0x401, 0x402, 0x403].map t.readByte, t.i)) = some ([0x11, 0x22, 0x33, 0], 0x400) := by decide
theorem test_M19_M20_store_outside :
    faultOf (step ((at0 0xFF55).setI 0xFF1)) = some (.addressOutOfBounds 0x1000 0x200) ∧
    faultOf (step ((at0 0xF055).setI 0x1388)) = some (.addressOutOfBounds 0x1388 0x200) := by decide
theorem test_M21_load_registers :
    after ((((at0 0xF265).writeBytes 0x300 [2, 3, 4]).setI 0x300).setV 3 0x99)
      (fun t => [0, 1, 2, 3].map t.getV) = some [2, 3, 4, 0x99] := by decide
theorem test_M24_load_outside :
    faultOf (step ((at0 0xF165).setI 0xFFF)) = some (.addressOutOfBounds 0x1000 0x200) := by decide

/-! ## Framebuffer -/

theorem test_G1_clear :
    after (((at0 0x00E0).setFb (Framebuffer.blank.setPixel 3 4 true)).setV VF 9) (fun t => (litColumns t 4, t.getV VF))
      = some ([], 9) := by decide

/-- G7: an `FF 81` sprite at (60, 31) wraps on both axes. -/
theorem test_G7_draw_wraps :
    after ((((at0 0xD012).writeBytes 0x300 [0xFF, 0x81]).setI 0x300 |>.setV 0 60).setV 1 31)
      (fun t => (litColumns t 31, litColumns t 0, t.getV VF)) = some ([0, 1, 2, 3, 60, 61, 62, 63], [3, 60], 0) := by decide

/-- G10: the x position is VF's value before the draw clears it. -/
theorem test_G10_draw_at_VF :
    after ((((at0 0xDF11).writeBytes 0x300 [0x80]).setI 0x300 |>.setV VF 5).setV 1 2)
      (fun t => (litColumns t 2, t.getV VF)) = some ([5], 0) := by decide

/-- G9: a collision in row 0 survives a clean row 1; G6: no rows draw nothing and clear VF, wherever `I` is. -/
theorem test_G9_G6_collision :
    after ((((at0 0xD012).writeBytes 0x300 [0x80, 0x00]).setI 0x300).setFb (Framebuffer.blank.setPixel 0 0 true))
      (fun t => (litColumns t 0, t.getV VF)) = some ([], 1) ∧
    after (((at0 0xD010).setI 0x1388).setV VF 1) (·.getV VF) = some 0 := by decide

theorem test_G11_draw_outside :
    faultOf (step ((at0 0xD012).setI 0xFFF)) = some (.addressOutOfBounds 0x1000 0x200) := by decide

/-! ## Timers and keypad -/

theorem test_X1_read_delay : after ((at0 0xF307).setDelay 0x2A) (fun t => (t.getV 3, t.delay)) = some (0x2A, 0x2A) := by decide
theorem test_X2_write_delay : after ((at0 0xF015).setV 0 3) (·.delay) = some 3 := by decide
theorem test_X3_write_sound : after ((at0 0xF418).setV 4 0x10) (·.sound) = some 16 := by decide
theorem test_X7_key_wait_idle :
    after ((at0 0xF20A).setV 2 9) (fun t => (t.pc, t.getV 2, t.cycleCount)) = some (0x200, 9, 1) := by decide
theorem test_X8_X10_key_wait :
    after ((at0 0xF20A).setKey 7 true) (fun t => (t.getV 2, t.pc)) = some (1, 0x202) ∧
    after (construct .canonical defaultFont |>.withFetchWord 16 0xF20A |>.setKey 9 true |>.setKey 3 true)
      (fun t => (t.getV 2, t.pc)) = some (3, 0x202) := by decide

/-! ## Transactions, fetch and reset -/

theorem test_X5_S10_tick :
    (tick ((State.reset.setDelay 1).setSound 1)).delay = 0 ∧ (tick (tick ((State.reset.setDelay 1).setSound 1))).sound = 0 ∧
    (tick (State.reset.setDelay 5)).delay = 4 := by decide

theorem test_X13_key_write : (keyWrite 4 true State.reset).getKey 4 = true ∧ (keyWrite 4 true State.reset).getKey 5 = false := by
  decide

/-- Z1: with nothing loaded, the first step finds the word 0x0000 at 0x200. -/
theorem test_Z1_first_step_after_reset : faultOf (step State.reset) = some (.unknownOpcode 0 0x200) := by decide

theorem test_Z4_Z5_fetch_at_the_end :
    after ((State.reset.setPc 0xFFE).withFetchWord 16 0x6007) (fun t => (t.getV 0, t.pc)) = some (7, 0x1000) ∧
    faultOf (step (State.reset.setPc 0xFFF)) = some (.addressOutOfBounds 0x1000 0xFFF) := by decide

/-- Z7: a LOAD into a machine that has run keeps V, `delay` and the call depth. -/
theorem test_Z7_load :
    (fun r : State × Except LoadError Nat => (r.1.readByte 0x200, r.1.readByte 0x201, r.1.pc, r.1.programSize, r.1.getV 3))
      (load [0x12, 0x00] (((State.reset.setV 3 9).setDelay 4).setPc 0x300)) = (0x12, 0x00, 0x200, 2, 9) := by decide

/-- T4, T11: a jump may leave the memory; the next step faults. -/
theorem test_T11_next_fetch : faultOf (step (State.reset.setPc 0x10FE)) = some (.addressOutOfBounds 0x10FE 0x10FE) := by decide

/-- `withFetchWord` places a word that step runs, also where no fetch can succeed at `pc`. -/
theorem test_withFetchWord :
    after (State.reset.withFetchWord 16 0x6A37) (·.getV 10) = some 0x37 ∧
    after ((State.reset.setPc 0xFFFF).withFetchWord 16 0x6A37) (·.getV 10) = some 0x37 := by decide

/-- A free count past the end: nothing fixes it, the step completes. -/
theorem test_step_completes_at_the_last_count :
    (after { at0 0x00E0 with cycleCount := BitVec.allOnes 64 } (·.pc)) = some 0x202 := by decide

/-! ## Witnesses: for each obligation with hypotheses, states and operands that meet them all, clause by clause -/

theorem witness_DecodeOfEncodeIsIdentity :
    (Instr.jpNnn 0xFFF).wellFormed = true ∧ (Instr.drwVxVyN 15 0 15).wellFormed = true := by decide

theorem witness_EncodeOfDecodeIsTheWord : decodeWord 0xBFFF = some (.jpV0Nnn 0xFFF) ∧ decodeWord 0x8FFE = some (.shlVx 15 15) := by
  decide

theorem witness_DecoderSelectsRowsByMaskAndMatch :
    ⟨"SHL_VX", 0xF00F, 0x800E⟩ ∈ opcodeRows ∧ (0x8FFE : Word) &&& 0xF00F = 0x800E ∧ (0x8FFD : Word) &&& 0xF00F ≠ 0x800E := by
  decide

/-- One unknown and one known word on either side of each line of R96's table. -/
theorem witness_UnknownWordsAreThoseOfTheTable :
    decodeWord 0x00E1 = none ∧ decodeWord 0x00E0 ≠ none ∧ decodeWord 0x5FF1 = none ∧ decodeWord 0x5FF0 ≠ none ∧
    decodeWord 0x8FF8 = none ∧ decodeWord 0x8FF7 ≠ none ∧ decodeWord 0x9FFF = none ∧ decodeWord 0x9FF0 ≠ none ∧
    decodeWord 0xEFA2 = none ∧ decodeWord 0xEFA1 ≠ none ∧ decodeWord 0xFF66 = none ∧ decodeWord 0xFF65 ≠ none := by decide

/-- CLS completes and RET raises at the last address a fetch reaches. -/
theorem witness_StepRunsTheDecodedInstruction :
    let s := (State.reset.setPc 4094).withFetchWord 16 0x00E0
    let u := (State.reset.setPc 4094).withFetchWord 16 0x00EE
    s.pc.toNat ≤ 4094 ∧ decode [s.readByte s.pc.toNat, s.readByte (s.pc.toNat + 1)] = .instr .cls [] ∧
    nextOf (exec .cls s) ≠ none ∧
    u.pc.toNat ≤ 4094 ∧ decode [u.readByte u.pc.toNat, u.readByte (u.pc.toNat + 1)] = .instr .ret [] ∧
    faultOf (exec .ret u) = some .stackUnderflow := by decide

theorem witness_UnknownWordIsReported :
    let s := (State.reset.setPc 4094).withFetchWord 16 0x5001
    s.pc.toNat ≤ 4094 ∧ decode [s.readByte s.pc.toNat, s.readByte (s.pc.toNat + 1)] =
      .unknownOpcode (assembleWord (s.readByte s.pc.toNat) (s.readByte (s.pc.toNat + 1))) := by decide

theorem witness_FetchOutsideMemoryFaults :
    4094 < (State.reset.setPc 4095).pc.toNat ∧ (State.reset.setPc 4095).pc.toNat = 4095 ∧
    4096 ≤ (State.reset.setPc 4096).pc.toNat := by decide

theorem witness_CompletedStepsCountOne :
    let s := { at0 0x00E0 with cycleCount := BitVec.ofNat 64 (2 ^ 64 - 2) }
    ∃ t c, transact (.step 0) s = (t, .stepped c) ∧ s.cycleCount.toNat < 2 ^ 64 - 1 := ⟨_, _, rfl, by decide⟩

theorem witness_RandIsConsumedByRndAlone : ∀ x nn, decodeWord (fetchWord (at0 0x8124)) ≠ some (.rndVxNn x nn) := by
  intro x nn
  rw [show decodeWord (fetchWord (at0 0x8124)) = some (.addVxVy 1 2) by decide]
  simp

/-- Both clauses: a `pc` where a fetch is possible, and one where none is. -/
theorem witness_PlacedWordRunsNext :
    State.reset.mem.wf State.reset.font = true ∧ decodeWord 0x8124 = some (.addVxVy 1 2) ∧
    (State.reset.setPc 4094).pc.toNat ≤ 4094 ∧ ¬ (State.reset.setPc 4095).pc.toNat ≤ 4094 := by decide

theorem witness_StoreIsSeenByTheNextFetch :
    let s := ((at0 0xF155).setV 0 0x12).setI 0x202
    s.mem.wf s.font = true ∧ 1 ≤ (1 : Reg).val ∧ s.i = s.pc + 2 ∧ ∃ t, exec (.ldMemIVx 1) s = .next t :=
  ⟨by decide, by decide, by decide, _, rfl⟩

theorem witness_address_operand : (0xFFF : Word).toNat < 4096 := by decide

theorem witness_CallPushesTheReturnAddress :
    (withStack State.reset 15 0).sp.val < 16 ∧ (withStack State.reset 16 0).sp.val = 16 := by decide

theorem witness_ReturnPopsIntoPc :
    0 < (withStack State.reset 1 0).sp.val ∧ 0 < (withStack State.reset 16 0).sp.val ∧ State.reset.sp.val = 0 := by decide

theorem witness_SeventeenthCallOverflows : State.reset.sp.val = 0 ∧ (List.replicate 16 (0x200 : Word)).length = 16 := by decide

/-- A call at 0x200, then a TICK, then back at the call's own depth. -/
theorem witness_SubroutineRoundTrip :
    ∃ t, exec (.callNnn 0x300) State.reset = .next t ∧ RunAbove t.sp.val t (transact .tick t).1 ∧ (transact .tick t).1.sp = t.sp :=
  ⟨_, rfl, .more (.here _ (le_refl _)) .tick (by simp) (le_refl _), rfl⟩

/-- For the unknown words of RegisterSkips and RegisterInequalitySkip. -/
theorem witness_RegisterSkips : 0 < 1 ∧ 1 < 16 ∧ 0 < 15 ∧ 15 < 16 := by decide

theorem witness_KeySkips :
    ((State.reset.setV 1 15).getV 1).toNat = (15 : Reg).val ∧ 15 < ((State.reset.setV 1 16).getV 1).toNat := by decide

/-- Every combination of the operands with VF. -/
theorem witness_flag_order : (14 : Reg) ≠ VF ∧ (0 : Reg) ≠ VF ∧ (15 : Reg) = VF := by decide

theorem witness_BcdStoresThreeDigits :
    let s := State.reset.setI 4093
    let u := State.reset.setI 4094
    s.mem.wf s.font = true ∧ s.i.toNat + 2 ≤ 4095 ∧ u.mem.wf u.font = true ∧ 4095 < u.i.toNat + 2 := by decide

/-- For FX55 and FX65. -/
theorem witness_register_runs :
    let s := State.reset.setI 4080
    let u := State.reset.setI 4081
    s.mem.wf s.font = true ∧ s.i.toNat + (15 : Reg).val ≤ 4095 ∧ u.mem.wf u.font = true ∧ 4095 < u.i.toNat + (15 : Reg).val := by
  decide

theorem witness_DrawTogglesTheSpritePixels :
    15 < 16 ∧ (State.reset.setI 4081).i.toNat + 15 - 1 ≤ 4095 ∧
    0 < 16 ∧ (0 = 0 ∨ (State.reset.setI 0xFFFF).i.toNat + 0 - 1 ≤ 4095) := by decide

/-- A pixel the sprite covers, on in one state and off in the other: both flag clauses apply somewhere. -/
theorem witness_SpriteCovers :
    let s := ((at0 0xD011).writeBytes 0x300 [0x80]).setI 0x300
    SpriteCovers s 0 1 1 0 0 ∧ s.pixel 0 0 = false ∧ (s.setFb (Framebuffer.blank.setPixel 0 0 true)).pixel 0 0 = true :=
  ⟨⟨0, 0, by decide, by decide, by decide, by decide, by decide⟩, by decide, by decide⟩

theorem witness_DrawOutsideMemoryFaults :
    15 < 16 ∧ 0 < 15 ∧ 4095 < (State.reset.setI 4082).i.toNat + 15 - 1 ∧ 0 < 1 ∧ 4095 < (State.reset.setI 4096).i.toNat + 1 - 1 := by
  decide

theorem witness_DrawingTwiceRestoresTheFramebuffer :
    (0 : Reg) ≠ VF ∧ (14 : Reg) ≠ VF ∧ ∃ t, exec (.drwVxVyN 0 14 5) State.reset = .next t := ⟨by decide, by decide, _, rfl⟩

/-- No key; key 0 alone; key 15 alone; in either mode. -/
theorem witness_KeyWaitPolls :
    (∀ k, State.reset.getKey k = false) ∧
    (State.reset.setKey 0 true).getKey 0 = true ∧ (∀ j : Reg, j.val < (0 : Reg).val → (State.reset.setKey 0 true).getKey j = false) ∧
    (State.reset.setKey 15 true).getKey 15 = true ∧
    (∀ j : Reg, j.val < (15 : Reg).val → (State.reset.setKey 15 true).getKey j = false) ∧
    (State.reset.setKey 15 true).fx0aMode = .original ∧ ((construct .canonical defaultFont).setKey 15 true).fx0aMode = .canonical := by
  decide

/-- For OnlyListedStateChanges and OnlyDestinationsChange: an instruction that writes a register, and one that stores. -/
theorem witness_frames :
    (∃ t, exec (.addVxVy 1 2) State.reset = .next t) ∧ (∃ t, exec (.ldBVx 3) (State.reset.setI 0x300) = .next t) :=
  ⟨⟨_, rfl⟩, ⟨_, rfl⟩⟩

theorem witness_ParametersAreFixed : ∀ m f, Transaction.load [0x12] ≠ .construct m f := by simp

theorem witness_LoadPlacesFontAndImage :
    State.reset.mem.wf State.reset.font = true ∧ (List.replicate 3584 (0 : Byte)).length ≤ 3584 ∧ ([] : List Byte).length ≤ 3584 :=
  ⟨by decide, by rw [List.length_replicate], by decide⟩

theorem witness_OversizedLoadRewritesTheFontOnly : 3584 < (List.replicate 3585 (0 : Byte)).length := by
  rw [List.length_replicate]
  decide

theorem witness_FirstFetchAfterLoadIsTheImage :
    (List.replicate 3582 (0 : Byte)).length + 2 ≤ 3584 ∧ ([] : List Byte).length + 2 ≤ 3584 :=
  ⟨by rw [List.length_replicate], by decide⟩

/-- A state with a stored byte, a full stack and the highest `pc` a jump can reach. -/
def busyState : State := ((withStack State.reset 16 4096).writeByte 0xFFF 0x77).setPc 4350

theorem witness_invariant : busyState.Inv := ⟨by decide, by decide, by decide⟩

theorem witness_StepKeepsTheInvariant : (at0 0x8124).Inv ∧ ∃ t, step (at0 0x8124) = .next t :=
  ⟨⟨by decide, by decide, by decide⟩, _, rfl⟩

theorem witness_FaultsRepeatUntilReloaded :
    (∃ f, stepWith 3 State.reset = .fault f) ∧
    ∀ x ∈ [Transaction.tick, .keyWrite 5 true, .step 7, .observe], x.keepsProgram = true :=
  ⟨⟨_, rfl⟩, by decide⟩

theorem witness_HiddenStateIsInvisible :
    let s := at0 0x8124
    let t := { (withStack (s.setSound 7) 0 0x345) with cycleCount := 99, programSize := 2 }
    s.mem.wf s.font = true ∧ t.mem.wf t.font = true ∧ s ≠ t ∧ SameForPrograms s t :=
  ⟨by decide, by decide, by decide, fun _ => rfl, rfl, rfl, rfl, by decide, rfl, fun _ _ => rfl, fun _ => rfl, fun _ => rfl, rfl, rfl,
    rfl⟩

theorem witness_IdleEndsOfARunPersist : AtSelfJump (at0 0x1200) ∧ AtIdlePoll (at0 0xF20A) :=
  ⟨⟨by decide, by decide⟩, by decide, ⟨2, by decide⟩, by decide⟩

end Sys2Proof.Tests
end

section
/-! The host's KEY_WRITE (10_state.md R32): what it answers, and what a key reads afterwards. -/

namespace Sys2Proof.Machine

theorem transact_keyWrite (k : Reg) (b : Bool) (s : State) : transact (.keyWrite k b) s = (s.setKey k b, .done) := rfl

@[simp] theorem State.getKey_setKey_same (s : State) (k : Reg) (b : Bool) : (s.setKey k b).getKey k = b := by
  simp [State.getKey_setKey]

@[simp] theorem State.getKey_setKey_other (s : State) {k j : Reg} (b : Bool) (h : j ≠ k) :
    (s.setKey k b).getKey j = s.getKey j := by
  simp [State.getKey_setKey, h]

/-- Settles O41: KEY_WRITE is `setKey`, whose read-back and frame are known. -/
theorem keyWriteSetsOneKey : Obligations.KeyWriteSetsOneKey := fun s k b =>
  ⟨s.setKey k b, transact_keyWrite k b s, s.getKey_setKey_same k b, fun _ hj => s.getKey_setKey_other b hj,
    sameExcept_setKey s k b⟩

end Sys2Proof.Machine
end

section
/-! The jumps 1NNN and BNNN (40_control_flow.md R121, R123): what their format A words decode to, and where they send `pc`. -/

namespace Sys2Proof

theorem opNNN_encodeA {g : Nat} (hg : g < 16) {nnn : Word} (h : nnn.toNat < 4096) : opNNN (encodeA g nnn) = nnn :=
  opNNN_of_toNat (encodeA_toNat hg h) h

theorem opGroup_encodeA {g : Nat} (hg : g < 16) {nnn : Word} (h : nnn.toNat < 4096) : opGroup (encodeA g nnn) = g :=
  Laws.group_A hg (decide_eq_true h)

theorem decodeWord_of_opGroup_jpNnn {op : Word} (h : opGroup op = 0x1) : decodeWord op = some (.jpNnn (opNNN op)) := by
  simp [decodeWord, h]

theorem decodeWord_of_opGroup_jpV0Nnn {op : Word} (h : opGroup op = 0xB) : decodeWord op = some (.jpV0Nnn (opNNN op)) := by
  simp [decodeWord, h]

end Sys2Proof

namespace Sys2Proof.Machine

theorem wordDecodesTo_jpNnn {nnn : Word} (h : nnn.toNat < 4096) : WordDecodesTo (0x1000 + nnn.toNat) (.jpNnn nnn) := by
  have hd := decodeWord_of_opGroup_jpNnn (opGroup_encodeA (by omega) h)
  rwa [opNNN_encodeA (by omega) h] at hd

theorem wordDecodesTo_jpV0Nnn {nnn : Word} (h : nnn.toNat < 4096) : WordDecodesTo (0xB000 + nnn.toNat) (.jpV0Nnn nnn) := by
  have hd := decodeWord_of_opGroup_jpV0Nnn (opGroup_encodeA (by omega) h)
  rwa [opNNN_encodeA (by omega) h] at hd

theorem exec_jpNnn (nnn : Word) (s : State) : exec (.jpNnn nnn) s = .next (s.setPc nnn) := rfl

theorem exec_jpV0Nnn (nnn : Word) (s : State) :
    exec (.jpV0Nnn nnn) s = .next (s.setPc (jumpTarget (s.getV V0) nnn)) := rfl

/-- The sum of a byte and a 12-bit address does not wrap: it is at most 4350 (R123). -/
theorem jumpTarget_toNat (b : Byte) {nnn : Word} (h : nnn.toNat < 4096) :
    (jumpTarget b nnn).toNat = b.toNat + nnn.toNat := by
  have := b.isLt
  simp only [jumpTarget, BitVec.toNat_ofNat]
  omega

/-- Settles O13: each jump is one `setPc`, to NNN or to an indexed target that cannot wrap. -/
theorem jumpsSetPcDirectly : Obligations.JumpsSetPcDirectly := fun s nnn h =>
  ⟨wordDecodesTo_jpNnn h, wordDecodesTo_jpV0Nnn h,
    ⟨s.setPc nnn, exec_jpNnn nnn s, rfl, sameExcept_setPc s nnn⟩,
    ⟨s.setPc (jumpTarget (s.getV V0) nnn), exec_jpV0Nnn nnn s, jumpTarget_toNat _ h, sameExcept_setPc s _⟩⟩

end Sys2Proof.Machine
end

section
/-! The register skips 3XNN, 4XNN and 5XY0 (41_skips.md R130 to R132, R136): the fields of words in formats XI and XY, what
decodes from them, and the one way in which a skip completes. -/

namespace Sys2Proof

theorem opX_encodeXI {g : Nat} (hg : g < 16) (x : Reg) (nn : Byte) : opX (encodeXI g x nn) = x :=
  opX_of_toNat (encodeXI_toNat hg x nn) nn.isLt

theorem opNN_encodeXI {g : Nat} (hg : g < 16) (x : Reg) (nn : Byte) : opNN (encodeXI g x nn) = nn :=
  opNN_of_toNat (q := g * 16 + x.val) ((encodeXI_toNat hg x nn).trans (by omega))

theorem opX_encodeXYN {g n : Nat} (hg : g < 16) (hn : n < 16) (x y : Reg) : opX (encodeXYN g x y n) = x :=
  opX_of_toNat (g := g) (r := y.val * 16 + n) ((encodeXYN_toNat hg hn x y).trans (by omega)) (by omega)

theorem opY_encodeXYN {g n : Nat} (hg : g < 16) (hn : n < 16) (x y : Reg) : opY (encodeXYN g x y n) = y :=
  opY_of_toNat (q := g * 16 + x.val) ((encodeXYN_toNat hg hn x y).trans (by omega)) hn

theorem opN_encodeXYN {g n : Nat} (hg : g < 16) (hn : n < 16) (x y : Reg) : opN (encodeXYN g x y n) = n := by
  rw [opN, encodeXYN_toNat hg hn]
  omega

theorem decodeWord_of_opGroup_seVxNn {op : Word} (h : opGroup op = 0x3) :
    decodeWord op = some (.seVxNn (opX op) (opNN op)) := by
  simp [decodeWord, h]

theorem decodeWord_of_opGroup_sneVxNn {op : Word} (h : opGroup op = 0x4) :
    decodeWord op = some (.sneVxNn (opX op) (opNN op)) := by
  simp [decodeWord, h]

/-- In group 5 the low digit selects between 5XY0 and an unknown opcode (R94). -/
theorem decodeWord_of_opGroup_seVxVy {op : Word} (h : opGroup op = 0x5) :
    decodeWord op = if opN op = 0 then some (.seVxVy (opX op) (opY op)) else none := by
  simp [decodeWord, h]

end Sys2Proof

namespace Sys2Proof.Machine

theorem wordDecodesTo_seVxNn (x : Reg) (nn : Byte) : WordDecodesTo (0x3000 + x.val * 256 + nn.toNat) (.seVxNn x nn) := by
  have hd := decodeWord_of_opGroup_seVxNn (Laws.group_XI (by omega) x nn)
  rwa [opX_encodeXI (by omega), opNN_encodeXI (by omega)] at hd

theorem wordDecodesTo_sneVxNn (x : Reg) (nn : Byte) : WordDecodesTo (0x4000 + x.val * 256 + nn.toNat) (.sneVxNn x nn) := by
  have hd := decodeWord_of_opGroup_sneVxNn (Laws.group_XI (by omega) x nn)
  rwa [opX_encodeXI (by omega), opNN_encodeXI (by omega)] at hd

/-- The words 5XYn, known and unknown at once. -/
theorem decodeWord_encodeXYN_group5 {n : Nat} (hn : n < 16) (x y : Reg) :
    decodeWord (encodeXYN 0x5 x y n) = if n = 0 then some (.seVxVy x y) else none := by
  rw [decodeWord_of_opGroup_seVxVy (Laws.group_XYN (by omega) hn x y), opN_encodeXYN (by omega) hn,
    opX_encodeXYN (by omega) hn, opY_encodeXYN (by omega) hn]

theorem wordDecodesTo_seVxVy (x y : Reg) : WordDecodesTo (0x5000 + x.val * 256 + y.val * 16) (.seVxVy x y) :=
  decodeWord_encodeXYN_group5 (n := 0) (by omega) x y

theorem decodeWord_group5_unknown {n : Nat} (h0 : 0 < n) (hn : n < 16) (x y : Reg) :
    decodeWord (BitVec.ofNat 16 (0x5000 + x.val * 256 + y.val * 16 + n)) = none :=
  (decodeWord_encodeXYN_group5 hn x y).trans (if_neg h0.ne')

theorem exec_seVxNn (x : Reg) (nn : Byte) (s : State) :
    exec (.seVxNn x nn) s = .next (s.skipIf (decide (s.getV x = nn))) := rfl

theorem exec_sneVxNn (x : Reg) (nn : Byte) (s : State) :
    exec (.sneVxNn x nn) s = .next (s.skipIf (decide (s.getV x ≠ nn))) := rfl

theorem exec_seVxVy (x y : Reg) (s : State) :
    exec (.seVxVy x y) s = .next (s.skipIf (decide (s.getV x = s.getV y))) := rfl

theorem sameExcept_skipIf (s : State) (b : Bool) : SameExcept [.pc] s (s.skipIf b) := sameExcept_setPc s _

/-- An instruction that answers `skipIf` completes as a skip on whatever its Boolean tests (R136). -/
theorem completesAsSkip_of_exec {i : Instr} {s : State} {b : Bool} {c : Prop} (h : exec i s = .next (s.skipIf b))
    (hbc : b = true ↔ c) : CompletesAsSkip i s c := by
  refine ⟨s.skipIf b, h, fun hc => ?taken, fun hc => ?passed, sameExcept_skipIf s b⟩
  case taken => simp [hbc.mpr hc, BitVec.toNat_add]
  case passed =>
    have hb : b = false := Bool.eq_false_iff.mpr fun hb => hc (hbc.mp hb)
    simp [hb, BitVec.toNat_add]

/-- Settles O19: the words by their fields, and each completion as one `skipIf`, equality of bytes being equality of their
numbers. -/
theorem registerSkips : Obligations.RegisterSkips := fun s x y nn =>
  ⟨wordDecodesTo_seVxNn x nn, wordDecodesTo_sneVxNn x nn, wordDecodesTo_seVxVy x y,
    fun _ h0 hn => decodeWord_group5_unknown h0 hn x y,
    completesAsSkip_of_exec (exec_seVxNn x nn s) (decide_eq_true_iff.trans BitVec.toNat_inj.symm),
    completesAsSkip_of_exec (exec_sneVxNn x nn s) (decide_eq_true_iff.trans BitVec.toNat_inj.not.symm),
    completesAsSkip_of_exec (exec_seVxVy x y s) (decide_eq_true_iff.trans BitVec.toNat_inj.symm)⟩

end Sys2Proof.Machine
end

section
/-! The register loads 6XNN and 8XY0, the logic of 8XY1 to 8XY3 and the addition 7XNN (42_register_alu.md R140 to R145): what
group 8 decodes to, and the one way in which an instruction that writes a single register and no flag completes. -/

namespace Sys2Proof

theorem decodeWord_of_opGroup_ldVxNn {op : Word} (h : opGroup op = 0x6) :
    decodeWord op = some (.ldVxNn (opX op) (opNN op)) := by
  simp [decodeWord, h]

theorem decodeWord_of_opGroup_addVxNn {op : Word} (h : opGroup op = 0x7) :
    decodeWord op = some (.addVxNn (opX op) (opNN op)) := by
  simp [decodeWord, h]

theorem decodeWord_of_opGroup_group8 {op : Word} (h : opGroup op = 0x8) : decodeWord op = decodeGroup8 op := by
  simp [decodeWord, h]

theorem decodeGroup8_of_opN_ldVxVy {op : Word} (h : opN op = 0x0) :
    decodeGroup8 op = some (.ldVxVy (opX op) (opY op)) := by
  simp [decodeGroup8, h]

theorem decodeGroup8_of_opN_orVxVy {op : Word} (h : opN op = 0x1) :
    decodeGroup8 op = some (.orVxVy (opX op) (opY op)) := by
  simp [decodeGroup8, h]

theorem decodeGroup8_of_opN_andVxVy {op : Word} (h : opN op = 0x2) :
    decodeGroup8 op = some (.andVxVy (opX op) (opY op)) := by
  simp [decodeGroup8, h]

theorem decodeGroup8_of_opN_xorVxVy {op : Word} (h : opN op = 0x3) :
    decodeGroup8 op = some (.xorVxVy (opX op) (opY op)) := by
  simp [decodeGroup8, h]

end Sys2Proof

namespace Sys2Proof.Machine

theorem wordDecodesTo_ldVxNn (x : Reg) (nn : Byte) : WordDecodesTo (0x6000 + x.val * 256 + nn.toNat) (.ldVxNn x nn) := by
  have hd := decodeWord_of_opGroup_ldVxNn (Laws.group_XI (by omega) x nn)
  rwa [opX_encodeXI (by omega), opNN_encodeXI (by omega)] at hd

theorem wordDecodesTo_addVxNn (x : Reg) (nn : Byte) : WordDecodesTo (0x7000 + x.val * 256 + nn.toNat) (.addVxNn x nn) := by
  have hd := decodeWord_of_opGroup_addVxNn (Laws.group_XI (by omega) x nn)
  rwa [opX_encodeXI (by omega), opNN_encodeXI (by omega)] at hd

/-- A row of group 8 from the function digit `n` that selects it: the word 8XYn decodes to the row's instruction on X and Y. -/
theorem wordDecodesTo_group8 {n : Nat} (hn : n < 16) {row : Reg → Reg → Instr}
    (hrow : ∀ {op : Word}, opN op = n → decodeGroup8 op = some (row (opX op) (opY op))) (x y : Reg) :
    WordDecodesTo (0x8000 + n + x.val * 256 + y.val * 16) (row x y) := by
  have hw : BitVec.ofNat 16 (0x8000 + n + x.val * 256 + y.val * 16) = encodeXYN 0x8 x y n :=
    congrArg (BitVec.ofNat 16) (by omega)
  rw [WordDecodesTo, hw, decodeWord_of_opGroup_group8 (Laws.group_XYN (by omega) hn x y),
    hrow (opN_encodeXYN (by omega) hn x y), opX_encodeXYN (by omega) hn, opY_encodeXYN (by omega) hn]

theorem exec_ldVxNn (x : Reg) (nn : Byte) (s : State) : exec (.ldVxNn x nn) s = .next (s.setV x nn).advance := rfl

theorem exec_addVxNn (x : Reg) (nn : Byte) (s : State) :
    exec (.addVxNn x nn) s = .next (s.setV x (s.getV x + nn)).advance := rfl

theorem exec_ldVxVy (x y : Reg) (s : State) : exec (.ldVxVy x y) s = .next (s.setV x (s.getV y)).advance := rfl

theorem exec_orVxVy (x y : Reg) (s : State) :
    exec (.orVxVy x y) s = .next (s.setV x (s.getV x ||| s.getV y)).advance := rfl

theorem exec_andVxVy (x y : Reg) (s : State) :
    exec (.andVxVy x y) s = .next (s.setV x (s.getV x &&& s.getV y)).advance := rfl

theorem exec_xorVxVy (x y : Reg) (s : State) :
    exec (.xorVxVy x y) s = .next (s.setV x (s.getV x ^^^ s.getV y)).advance := rfl

theorem sameExcept_advance (s : State) : SameExcept [.pc] s s.advance := sameExcept_setPc s _

theorem pcAdvances_advance (s : State) : PcAdvances s s.advance := BitVec.toNat_add s.pc 2

/-- An instruction that answers one `setV` and `advance` completes in place with whatever holds of the byte it writes. -/
theorem completesWritingV_of_exec {i : Instr} {s : State} {x : Reg} {b : Byte} {p : Byte → Prop}
    (h : exec i s = .next (s.setV x b).advance) (hp : p b) : CompletesWritingV i s x p := by
  refine ⟨(s.setV x b).advance, h, ?written, fun j hj => ?kept, pcAdvances_advance (s.setV x b),
    (sameExcept_setV s x b).append (sameExcept_advance _)⟩
  case written => simpa using hp
  case kept => simp [hj]

/-- Settles O22: the words by their fields, and each completion as one `setV`, whose byte is read bit by bit. -/
theorem loadsAndLogicWriteOneRegister : Obligations.LoadsAndLogicWriteOneRegister := fun s x y nn =>
  ⟨wordDecodesTo_ldVxNn x nn,
    wordDecodesTo_group8 (n := 0) (by omega) decodeGroup8_of_opN_ldVxVy x y,
    wordDecodesTo_group8 (n := 1) (by omega) decodeGroup8_of_opN_orVxVy x y,
    wordDecodesTo_group8 (n := 2) (by omega) decodeGroup8_of_opN_andVxVy x y,
    wordDecodesTo_group8 (n := 3) (by omega) decodeGroup8_of_opN_xorVxVy x y,
    completesWritingV_of_exec (exec_ldVxNn x nn s) rfl,
    completesWritingV_of_exec (exec_ldVxVy x y s) rfl,
    completesWritingV_of_exec (exec_orVxVy x y s) fun _ _ => BitVec.getLsbD_or,
    completesWritingV_of_exec (exec_andVxVy x y s) fun _ _ => BitVec.getLsbD_and,
    completesWritingV_of_exec (exec_xorVxVy x y s) fun _ _ => BitVec.getLsbD_xor⟩

/-- Settles O23: the word by its fields, and the completion as one `setV` of a sum of bytes, which wraps modulo 256. -/
theorem addImmediateWrapsWithoutFlag : Obligations.AddImmediateWrapsWithoutFlag := fun s x nn =>
  ⟨wordDecodesTo_addVxNn x nn, completesWritingV_of_exec (exec_addVxNn x nn s) (BitVec.toNat_add _ _)⟩

end Sys2Proof.Machine
end

section
/-! The load of `I`, ANNN (43_index_memory.md R160): what its format A word decodes to, and its completion as one `setI`. -/

namespace Sys2Proof

theorem decodeWord_of_opGroup_ldINnn {op : Word} (h : opGroup op = 0xA) : decodeWord op = some (.ldINnn (opNNN op)) := by
  simp [decodeWord, h]

end Sys2Proof

namespace Sys2Proof.Machine

theorem wordDecodesTo_ldINnn {nnn : Word} (h : nnn.toNat < 4096) : WordDecodesTo (0xA000 + nnn.toNat) (.ldINnn nnn) := by
  have hd := decodeWord_of_opGroup_ldINnn (opGroup_encodeA (by omega) h)
  rwa [opNNN_encodeA (by omega) h] at hd

theorem exec_ldINnn (nnn : Word) (s : State) : exec (.ldINnn nnn) s = .next (s.setI nnn).advance := rfl

/-- Storing `w` in `I` and advancing changes `I` and `pc` alone. -/
theorem sameExcept_setI_advance (s : State) (w : Word) : SameExcept [.i, .pc] s (s.setI w).advance :=
  (sameExcept_setI s w).append (sameExcept_advance _)

/-- Settles O29: the word by its fields, and the completion as one `setI`, whose read-back and frame are known. -/
theorem loadIndexImmediate : Obligations.LoadIndexImmediate := fun s nnn h =>
  ⟨wordDecodesTo_ldINnn h, (s.setI nnn).advance, exec_ldINnn nnn s, rfl, pcAdvances_advance (s.setI nnn),
    sameExcept_setI_advance s nnn⟩

end Sys2Proof.Machine
end

section
/-! The moves between `V[X]` and the timers, FX07, FX15 and FX18 (45_timers_keypad.md R180, R182, R183): the fields of words in
format XF, what decodes from them in group F, and each completion as one field's update. -/

namespace Sys2Proof

theorem opX_encodeXF {g f : Nat} (hg : g < 16) (hf : f < 256) (x : Reg) : opX (encodeXF g x f) = x :=
  opX_of_toNat (encodeXF_toNat hg hf x) hf

theorem encodeXF_toNat_mod {g f : Nat} (hg : g < 16) (hf : f < 256) (x : Reg) : (encodeXF g x f).toNat % 256 = f := by
  rw [encodeXF_toNat hg hf]
  omega

theorem decodeWord_of_opGroup_groupF {op : Word} (h : opGroup op = 0xF) : decodeWord op = decodeGroupF op := by
  simp [decodeWord, h]

theorem decodeGroupF_of_mod_ldVxDt {op : Word} (h : op.toNat % 256 = 0x07) : decodeGroupF op = some (.ldVxDt (opX op)) := by
  simp [decodeGroupF, h]

theorem decodeGroupF_of_mod_ldDtVx {op : Word} (h : op.toNat % 256 = 0x15) : decodeGroupF op = some (.ldDtVx (opX op)) := by
  simp [decodeGroupF, h]

theorem decodeGroupF_of_mod_ldStVx {op : Word} (h : op.toNat % 256 = 0x18) : decodeGroupF op = some (.ldStVx (opX op)) := by
  simp [decodeGroupF, h]

end Sys2Proof

namespace Sys2Proof.Machine

/-- A row of group F from the function byte `f` that selects it: the word FXff decodes to the row's instruction on X. -/
theorem wordDecodesTo_groupF {f : Nat} (hf : f < 256) {row : Reg → Instr}
    (hrow : ∀ {op : Word}, op.toNat % 256 = f → decodeGroupF op = some (row (opX op))) (x : Reg) :
    WordDecodesTo (0xF000 + f + x.val * 256) (row x) := by
  have hw : BitVec.ofNat 16 (0xF000 + f + x.val * 256) = encodeXF 0xF x f :=
    congrArg (BitVec.ofNat 16) (by omega)
  rw [WordDecodesTo, hw, decodeWord_of_opGroup_groupF (Laws.group_XF (by omega) hf x),
    hrow (encodeXF_toNat_mod (by omega) hf x), opX_encodeXF (by omega) hf]

theorem exec_ldVxDt (x : Reg) (s : State) : exec (.ldVxDt x) s = .next (s.setV x s.delay).advance := rfl

theorem exec_ldDtVx (x : Reg) (s : State) : exec (.ldDtVx x) s = .next (s.setDelay (s.getV x)).advance := rfl

theorem exec_ldStVx (x : Reg) (s : State) : exec (.ldStVx x) s = .next (s.setSound (s.getV x)).advance := rfl

/-- Setting the delay timer and advancing changes the delay timer and `pc` alone. -/
theorem sameExcept_setDelay_advance (s : State) (b : Byte) : SameExcept [.delay, .pc] s (s.setDelay b).advance :=
  (sameExcept_setDelay s b).append (sameExcept_advance _)

/-- Setting the sound timer and advancing changes the sound timer and `pc` alone. -/
theorem sameExcept_setSound_advance (s : State) (b : Byte) : SameExcept [.sound, .pc] s (s.setSound b).advance :=
  (sameExcept_setSound s b).append (sameExcept_advance _)

/-- Settles O38: the words by their function bytes, FX07 as one `setV` of the delay timer, FX15 and FX18 as one `setDelay` or
`setSound` of `V[X]`. -/
theorem timerRegistersMove : Obligations.TimerRegistersMove := fun s x =>
  ⟨wordDecodesTo_groupF (f := 0x07) (by omega) decodeGroupF_of_mod_ldVxDt x,
    wordDecodesTo_groupF (f := 0x15) (by omega) decodeGroupF_of_mod_ldDtVx x,
    wordDecodesTo_groupF (f := 0x18) (by omega) decodeGroupF_of_mod_ldStVx x,
    completesWritingV_of_exec (exec_ldVxDt x s) rfl,
    ⟨(s.setDelay (s.getV x)).advance, exec_ldDtVx x s, rfl, pcAdvances_advance (s.setDelay (s.getV x)),
      sameExcept_setDelay_advance s _⟩,
    ⟨(s.setSound (s.getV x)).advance, exec_ldStVx x s, rfl, pcAdvances_advance (s.setSound (s.getV x)),
      sameExcept_setSound_advance s _⟩⟩

end Sys2Proof.Machine
end

section
/-! The call 2NNN and the overflow of the stack (40_control_flow.md R122, 60_exceptions.md R192): a call by the room it finds,
and runs of calls. -/

namespace Sys2Proof.Machine

theorem exec_callNnn_room {s : State} (nnn : Word) (h : s.sp.val < 16) :
    exec (.callNnn nnn) s =
      .next ((s.setStack (s.stack.set s.sp.val (returnAddress s)) ⟨s.sp.val + 1, by omega⟩).setPc nnn) := by
  rw [exec, execCallNnn, State.push_room _ h]

/-- A call that finds room completes with `sp` one higher. -/
theorem exists_exec_callNnn_next {s : State} (nnn : Word) (h : s.sp.val < 16) :
    ∃ t, exec (.callNnn nnn) s = .next t ∧ t.sp.val = s.sp.val + 1 :=
  ⟨_, exec_callNnn_room nnn h, rfl⟩

theorem exec_callNnn_full {s : State} (nnn : Word) (h : s.sp.val = 16) : exec (.callNnn nnn) s = .fault .stackOverflow := by
  rw [exec, execCallNnn, State.push_full _ h, raise]

/-- `sp` is at most 16, so a call that finds no room finds it at 16. -/
theorem exec_callNnn_overflows_iff (nnn : Word) (s : State) :
    exec (.callNnn nnn) s = .fault .stackOverflow ↔ s.sp.val = 16 := by
  refine ⟨fun hf => ?_, exec_callNnn_full nnn⟩
  have hroom : ¬ s.sp.val < 16 := fun h => by cases (exec_callNnn_room nnn h).symm.trans hf
  omega

theorem callAll_cons_of_next {nnn : Word} {s t : State} (ts : List Word) (h : exec (.callNnn nnn) s = .next t) :
    callAll (nnn :: ts) s = callAll ts t := by
  rw [callAll, h]

/-- Calls for which the stack has room all complete, and each raises `sp` by one. -/
theorem callAll_room (targets : List Word) (s : State) (h : s.sp.val + targets.length ≤ 16) :
    ∃ t, callAll targets s = .next t ∧ t.sp.val = s.sp.val + targets.length := by
  induction targets generalizing s with
  | nil => exact ⟨s, rfl, rfl⟩
  | cons nnn ts ih =>
    rw [List.length_cons] at h ⊢
    obtain ⟨u, hu, husp⟩ := exists_exec_callNnn_next nnn (s := s) (by omega)
    obtain ⟨t, ht, htsp⟩ := ih u (by omega)
    exact ⟨t, (callAll_cons_of_next ts hu).trans ht, by omega⟩

/-- Settles O16: a call overflows exactly at `sp = 16`, which 16 calls from an empty stack reach. -/
theorem seventeenthCallOverflows : Obligations.SeventeenthCallOverflows := by
  refine ⟨fun s nnn => exec_callNnn_overflows_iff nnn s, fun s targets hsp hlen => ?_⟩
  obtain ⟨t, ht, hts⟩ := callAll_room targets s (by omega)
  have hfull : t.sp.val = 16 := by omega
  exact ⟨t, ht, hfull, fun nnn => exec_callNnn_full nnn hfull⟩

end Sys2Proof.Machine
end

section
/-! The unknown opcode (60_exceptions.md R191): what its rejection says of the word, and what the STEP then raises. -/

namespace Sys2Proof

/-- Two bytes are rejected as unknown only where their word selects no row (R96). -/
theorem decodeWord_of_decode_unknownOpcode {hi lo : Byte} {op : Word} (h : decode [hi, lo] = .unknownOpcode op) :
    decodeWord (assembleWord hi lo) = none := by
  cases hd : decodeWord (assembleWord hi lo) with
  | none => rfl
  | some i => simp [decode, hd] at h

end Sys2Proof

namespace Sys2Proof.Machine

theorem step_unknown {s : State} (hpc : s.pc.toNat ≤ 4094) (hd : decodeWord (fetchWord s) = none) :
    step s = .fault (.unknownOpcode (fetchWord s) s.pc) :=
  withInstr_unknown hpc hd

/-- Settles O7: the word raised is the one fetched, whose number is that of its two bytes. -/
theorem unknownWordIsReported : Obligations.UnknownWordIsReported := fun s hpc hdec =>
  ⟨fetchWord s, assembleWord_toNat _ _, step_unknown hpc (decodeWord_of_decode_unknownOpcode hdec)⟩

end Sys2Proof.Machine
end

section
/-! The host's TICK (60_exceptions.md R203): what it answers and what it changes. -/

namespace Sys2Proof.Machine

theorem transact_tick (s : State) : transact .tick s = (tick s, .done) := rfl

theorem sameExcept_tick (s : State) : SameExcept [.delay, .sound] s (tick s) :=
  (sameExcept_setDelay s _).append (sameExcept_setSound _ _)

/-- Settles O40: TICK puts `countDown` of each timer in its place, which is truncated subtraction of one. -/
theorem tickCountsBothTimersDown : Obligations.TickCountsBothTimersDown := fun s =>
  ⟨tick s, transact_tick s, countDown_toNat s.delay, countDown_toNat s.sound, sameExcept_tick s⟩

end Sys2Proof.Machine
end

section
/-! Decoding against encoding (30_encoding.md R91 to R96): the rows of the opcode map that the sections above do not read yet,
then the word of every instruction, both ways. -/

namespace Sys2Proof

/-! ### The rows by their group and their fixed digits -/

theorem decodeWord_of_opGroup_callNnn {op : Word} (h : opGroup op = 0x2) : decodeWord op = some (.callNnn (opNNN op)) := by
  simp [decodeWord, h]

/-- In group 9 the low digit selects between 9XY0 and an unknown opcode (R94). -/
theorem decodeWord_of_opGroup_sneVxVy {op : Word} (h : opGroup op = 0x9) :
    decodeWord op = if opN op = 0 then some (.sneVxVy (opX op) (opY op)) else none := by
  simp [decodeWord, h]

theorem decodeWord_of_opGroup_rndVxNn {op : Word} (h : opGroup op = 0xC) :
    decodeWord op = some (.rndVxNn (opX op) (opNN op)) := by
  simp [decodeWord, h]

theorem decodeWord_of_opGroup_drwVxVyN {op : Word} (h : opGroup op = 0xD) :
    decodeWord op = some (.drwVxVyN (opX op) (opY op) (opN op)) := by
  simp [decodeWord, h]

theorem decodeWord_of_opGroup_groupE {op : Word} (h : opGroup op = 0xE) : decodeWord op = decodeGroupE op := by
  simp [decodeWord, h]

theorem decodeGroup8_of_opN_addVxVy {op : Word} (h : opN op = 0x4) :
    decodeGroup8 op = some (.addVxVy (opX op) (opY op)) := by
  simp [decodeGroup8, h]

theorem decodeGroup8_of_opN_subVxVy {op : Word} (h : opN op = 0x5) :
    decodeGroup8 op = some (.subVxVy (opX op) (opY op)) := by
  simp [decodeGroup8, h]

theorem decodeGroup8_of_opN_shrVx {op : Word} (h : opN op = 0x6) : decodeGroup8 op = some (.shrVx (opX op) (opY op)) := by
  simp [decodeGroup8, h]

theorem decodeGroup8_of_opN_subnVxVy {op : Word} (h : opN op = 0x7) :
    decodeGroup8 op = some (.subnVxVy (opX op) (opY op)) := by
  simp [decodeGroup8, h]

theorem decodeGroup8_of_opN_shlVx {op : Word} (h : opN op = 0xE) : decodeGroup8 op = some (.shlVx (opX op) (opY op)) := by
  simp [decodeGroup8, h]

theorem decodeGroupE_of_mod_skpVx {op : Word} (h : op.toNat % 256 = 0x9E) : decodeGroupE op = some (.skpVx (opX op)) := by
  simp [decodeGroupE, h]

theorem decodeGroupE_of_mod_sknpVx {op : Word} (h : op.toNat % 256 = 0xA1) : decodeGroupE op = some (.sknpVx (opX op)) := by
  simp [decodeGroupE, h]

theorem decodeGroupF_of_mod_ldVxK {op : Word} (h : op.toNat % 256 = 0x0A) : decodeGroupF op = some (.ldVxK (opX op)) := by
  simp [decodeGroupF, h]

theorem decodeGroupF_of_mod_addIVx {op : Word} (h : op.toNat % 256 = 0x1E) : decodeGroupF op = some (.addIVx (opX op)) := by
  simp [decodeGroupF, h]

theorem decodeGroupF_of_mod_ldFVx {op : Word} (h : op.toNat % 256 = 0x29) : decodeGroupF op = some (.ldFVx (opX op)) := by
  simp [decodeGroupF, h]

theorem decodeGroupF_of_mod_ldBVx {op : Word} (h : op.toNat % 256 = 0x33) : decodeGroupF op = some (.ldBVx (opX op)) := by
  simp [decodeGroupF, h]

theorem decodeGroupF_of_mod_ldMemIVx {op : Word} (h : op.toNat % 256 = 0x55) :
    decodeGroupF op = some (.ldMemIVx (opX op)) := by
  simp [decodeGroupF, h]

theorem decodeGroupF_of_mod_ldVxMemI {op : Word} (h : op.toNat % 256 = 0x65) :
    decodeGroupF op = some (.ldVxMemI (opX op)) := by
  simp [decodeGroupF, h]

/-! ### Decoding an encoded word, format by format -/

theorem decodeWord_encodeA {g : Nat} (hg : g < 16) {row : Word → Instr}
    (hrow : ∀ {op : Word}, opGroup op = g → decodeWord op = some (row (opNNN op))) {nnn : Word}
    (h : addressFits nnn = true) : decodeWord (encodeA g nnn) = some (row nnn) := by
  rw [hrow (Laws.group_A hg h), opNNN_encodeA hg (of_decide_eq_true h)]

theorem decodeWord_encodeXI {g : Nat} (hg : g < 16) {row : Reg → Byte → Instr}
    (hrow : ∀ {op : Word}, opGroup op = g → decodeWord op = some (row (opX op) (opNN op))) (x : Reg) (nn : Byte) :
    decodeWord (encodeXI g x nn) = some (row x nn) := by
  rw [hrow (Laws.group_XI hg x nn), opX_encodeXI hg, opNN_encodeXI hg]

/-- The words 9XYn, known and unknown at once. -/
theorem decodeWord_encodeXYN_group9 {n : Nat} (hn : n < 16) (x y : Reg) :
    decodeWord (encodeXYN 0x9 x y n) = if n = 0 then some (.sneVxVy x y) else none := by
  rw [decodeWord_of_opGroup_sneVxVy (Laws.group_XYN (by omega) hn x y), opN_encodeXYN (by omega) hn,
    opX_encodeXYN (by omega) hn, opY_encodeXYN (by omega) hn]

theorem decodeWord_encodeXYN_group8 {n : Nat} (hn : n < 16) {row : Reg → Reg → Instr}
    (hrow : ∀ {op : Word}, opN op = n → decodeGroup8 op = some (row (opX op) (opY op))) (x y : Reg) :
    decodeWord (encodeXYN 0x8 x y n) = some (row x y) := by
  rw [decodeWord_of_opGroup_group8 (Laws.group_XYN (by omega) hn x y), hrow (opN_encodeXYN (by omega) hn x y),
    opX_encodeXYN (by omega) hn, opY_encodeXYN (by omega) hn]

theorem decodeWord_encodeXYN_groupD {n : Nat} (hn : n < 16) (x y : Reg) :
    decodeWord (encodeXYN 0xD x y n) = some (.drwVxVyN x y n) := by
  rw [decodeWord_of_opGroup_drwVxVyN (Laws.group_XYN (by omega) hn x y), opN_encodeXYN (by omega) hn,
    opX_encodeXYN (by omega) hn, opY_encodeXYN (by omega) hn]

theorem decodeWord_encodeXF_groupE {f : Nat} (hf : f < 256) {row : Reg → Instr}
    (hrow : ∀ {op : Word}, op.toNat % 256 = f → decodeGroupE op = some (row (opX op))) (x : Reg) :
    decodeWord (encodeXF 0xE x f) = some (row x) := by
  rw [decodeWord_of_opGroup_groupE (Laws.group_XF (by omega) hf x), hrow (encodeXF_toNat_mod (by omega) hf x),
    opX_encodeXF (by omega) hf]

theorem decodeWord_encodeXF_groupF {f : Nat} (hf : f < 256) {row : Reg → Instr}
    (hrow : ∀ {op : Word}, op.toNat % 256 = f → decodeGroupF op = some (row (opX op))) (x : Reg) :
    decodeWord (encodeXF 0xF x f) = some (row x) := by
  rw [decodeWord_of_opGroup_groupF (Laws.group_XF (by omega) hf x), hrow (encodeXF_toNat_mod (by omega) hf x),
    opX_encodeXF (by omega) hf]

/-- The word of a well-formed instruction decodes to it: each row through its format (R92, R94). -/
theorem decodeWord_encodeWord {i : Instr} (h : i.wellFormed = true) : decodeWord (encodeWord i) = some i := by
  cases i with
  | cls => rfl
  | ret => rfl
  | jpNnn => exact decodeWord_encodeA (by omega) decodeWord_of_opGroup_jpNnn h
  | callNnn => exact decodeWord_encodeA (by omega) decodeWord_of_opGroup_callNnn h
  | ldINnn => exact decodeWord_encodeA (by omega) decodeWord_of_opGroup_ldINnn h
  | jpV0Nnn => exact decodeWord_encodeA (by omega) decodeWord_of_opGroup_jpV0Nnn h
  | seVxNn x nn => exact decodeWord_encodeXI (by omega) decodeWord_of_opGroup_seVxNn x nn
  | sneVxNn x nn => exact decodeWord_encodeXI (by omega) decodeWord_of_opGroup_sneVxNn x nn
  | ldVxNn x nn => exact decodeWord_encodeXI (by omega) decodeWord_of_opGroup_ldVxNn x nn
  | addVxNn x nn => exact decodeWord_encodeXI (by omega) decodeWord_of_opGroup_addVxNn x nn
  | rndVxNn x nn => exact decodeWord_encodeXI (by omega) decodeWord_of_opGroup_rndVxNn x nn
  | seVxVy x y => exact Machine.decodeWord_encodeXYN_group5 (n := 0) (by omega) x y
  | sneVxVy x y => exact decodeWord_encodeXYN_group9 (n := 0) (by omega) x y
  | ldVxVy x y => exact decodeWord_encodeXYN_group8 (by omega) decodeGroup8_of_opN_ldVxVy x y
  | orVxVy x y => exact decodeWord_encodeXYN_group8 (by omega) decodeGroup8_of_opN_orVxVy x y
  | andVxVy x y => exact decodeWord_encodeXYN_group8 (by omega) decodeGroup8_of_opN_andVxVy x y
  | xorVxVy x y => exact decodeWord_encodeXYN_group8 (by omega) decodeGroup8_of_opN_xorVxVy x y
  | addVxVy x y => exact decodeWord_encodeXYN_group8 (by omega) decodeGroup8_of_opN_addVxVy x y
  | subVxVy x y => exact decodeWord_encodeXYN_group8 (by omega) decodeGroup8_of_opN_subVxVy x y
  | shrVx x y => exact decodeWord_encodeXYN_group8 (by omega) decodeGroup8_of_opN_shrVx x y
  | subnVxVy x y => exact decodeWord_encodeXYN_group8 (by omega) decodeGroup8_of_opN_subnVxVy x y
  | shlVx x y => exact decodeWord_encodeXYN_group8 (by omega) decodeGroup8_of_opN_shlVx x y
  | drwVxVyN x y => exact decodeWord_encodeXYN_groupD (of_decide_eq_true h) x y
  | skpVx x => exact decodeWord_encodeXF_groupE (by omega) decodeGroupE_of_mod_skpVx x
  | sknpVx x => exact decodeWord_encodeXF_groupE (by omega) decodeGroupE_of_mod_sknpVx x
  | ldVxDt x => exact decodeWord_encodeXF_groupF (by omega) decodeGroupF_of_mod_ldVxDt x
  | ldVxK x => exact decodeWord_encodeXF_groupF (by omega) decodeGroupF_of_mod_ldVxK x
  | ldDtVx x => exact decodeWord_encodeXF_groupF (by omega) decodeGroupF_of_mod_ldDtVx x
  | ldStVx x => exact decodeWord_encodeXF_groupF (by omega) decodeGroupF_of_mod_ldStVx x
  | addIVx x => exact decodeWord_encodeXF_groupF (by omega) decodeGroupF_of_mod_addIVx x
  | ldFVx x => exact decodeWord_encodeXF_groupF (by omega) decodeGroupF_of_mod_ldFVx x
  | ldBVx x => exact decodeWord_encodeXF_groupF (by omega) decodeGroupF_of_mod_ldBVx x
  | ldMemIVx x => exact decodeWord_encodeXF_groupF (by omega) decodeGroupF_of_mod_ldMemIVx x
  | ldVxMemI x => exact decodeWord_encodeXF_groupF (by omega) decodeGroupF_of_mod_ldVxMemI x

/-- Decoding reads the first two bytes alone. -/
theorem decode_wordBytes_append {op : Word} {i : Instr} (h : decodeWord op = some i) (rest : List Byte) :
    decode (wordBytes op ++ rest) = .instr i rest := by
  simp only [wordBytes, List.cons_append, List.nil_append, decode, assembleWord_wordBytes, h]

/-- Settles O1: the two bytes of an instruction assemble to its word, which decodes to it format by format. -/
theorem decodeOfEncodeIsIdentity : Obligations.DecodeOfEncodeIsIdentity := fun _ rest h =>
  decode_wordBytes_append (decodeWord_encodeWord h) rest

/-! ### Encoding a decoded word -/

theorem opN_lt (op : Word) : opN op < 16 := Nat.mod_lt _ (by omega)

theorem encodeA_opGroup_opNNN (op : Word) : encodeA (opGroup op) (opNNN op) = op := by
  apply BitVec.eq_of_toNat_eq
  have := op.isLt
  simp only [encodeA, opGroup, opNNN, BitVec.toNat_ofNat]
  omega

theorem encodeXI_opGroup_opX_opNN (op : Word) : encodeXI (opGroup op) (opX op) (opNN op) = op := by
  apply BitVec.eq_of_toNat_eq
  have := op.isLt
  simp only [encodeXI, opGroup, opX, opNN, BitVec.toNat_ofNat, Fin.val_ofNat]
  omega

theorem encodeXYN_opGroup_opX_opY_opN (op : Word) : encodeXYN (opGroup op) (opX op) (opY op) (opN op) = op := by
  apply BitVec.eq_of_toNat_eq
  have := op.isLt
  simp only [encodeXYN, opGroup, opX, opY, opN, BitVec.toNat_ofNat, Fin.val_ofNat]
  omega

theorem encodeXF_opGroup_opX (op : Word) : encodeXF (opGroup op) (opX op) (op.toNat % 256) = op := by
  apply BitVec.eq_of_toNat_eq
  have := op.isLt
  simp only [encodeXF, opGroup, opX, BitVec.toNat_ofNat, Fin.val_ofNat]
  omega

theorem addressFits_opNNN (op : Word) : addressFits (opNNN op) = true := by
  simp only [addressFits, opNNN, BitVec.toNat_ofNat, decide_eq_true_eq]
  omega

theorem encodeA_of_opGroup {op : Word} {g : Nat} (h : opGroup op = g) : encodeA g (opNNN op) = op :=
  h ▸ encodeA_opGroup_opNNN op

theorem encodeXI_of_opGroup {op : Word} {g : Nat} (h : opGroup op = g) : encodeXI g (opX op) (opNN op) = op :=
  h ▸ encodeXI_opGroup_opX_opNN op

theorem encodeXYN_of_opGroup {op : Word} {g n : Nat} (h : opGroup op = g) (hn : opN op = n) :
    encodeXYN g (opX op) (opY op) n = op :=
  h ▸ hn ▸ encodeXYN_opGroup_opX_opY_opN op

theorem encodeXF_of_opGroup {op : Word} {g f : Nat} (h : opGroup op = g) (hf : op.toNat % 256 = f) :
    encodeXF g (opX op) f = op :=
  h ▸ hf ▸ encodeXF_opGroup_opX op

/-- `i` is well formed and `op` is its word. -/
def IsWordOf (op : Word) (i : Instr) : Prop := i.wellFormed = true ∧ encodeWord i = op

theorem isWordOf_of_decodeGroup0 {op : Word} {i : Instr} (h : decodeGroup0 op = some i) : IsWordOf op i := by
  unfold decodeGroup0 at h
  split at h <;> cases h
  case h_1 hop => exact ⟨rfl, BitVec.eq_of_toNat_eq hop.symm⟩
  case h_2 hop => exact ⟨rfl, BitVec.eq_of_toNat_eq hop.symm⟩

/-- Each row of group 8 is the digits 8, X, Y and its function digit. -/
theorem isWordOf_of_decodeGroup8 {op : Word} {i : Instr} (hg : opGroup op = 0x8) (h : decodeGroup8 op = some i) :
    IsWordOf op i := by
  unfold decodeGroup8 at h
  split at h <;> cases h <;> exact ⟨rfl, encodeXYN_of_opGroup hg ‹_›⟩

/-- Each row of group E is the digits E, X and its function byte. -/
theorem isWordOf_of_decodeGroupE {op : Word} {i : Instr} (hg : opGroup op = 0xE) (h : decodeGroupE op = some i) :
    IsWordOf op i := by
  unfold decodeGroupE at h
  split at h <;> cases h <;> exact ⟨rfl, encodeXF_of_opGroup hg ‹_›⟩

/-- Each row of group F is the digits F, X and its function byte. -/
theorem isWordOf_of_decodeGroupF {op : Word} {i : Instr} (hg : opGroup op = 0xF) (h : decodeGroupF op = some i) :
    IsWordOf op i := by
  unfold decodeGroupF at h
  split at h <;> cases h <;> exact ⟨rfl, encodeXF_of_opGroup hg ‹_›⟩

/-- A known word is the word of what it decodes to: each group by its format. -/
theorem isWordOf_of_decodeWord {op : Word} {i : Instr} (h : decodeWord op = some i) : IsWordOf op i := by
  unfold decodeWord at h
  split at h
  case h_1 => exact isWordOf_of_decodeGroup0 h
  -- Groups 1, 2, A and B: format A.
  case h_2 hg | h_3 hg | h_11 hg | h_12 hg => cases h; exact ⟨addressFits_opNNN op, encodeA_of_opGroup hg⟩
  -- Groups 3, 4, 6, 7 and C: format XI.
  case h_4 hg | h_5 hg | h_7 hg | h_8 hg | h_13 hg => cases h; exact ⟨rfl, encodeXI_of_opGroup hg⟩
  -- Groups 5 and 9: format XY, known for the low digit 0 alone.
  case h_6 hg | h_10 hg =>
    obtain ⟨hn, hi⟩ := Option.ite_none_right_eq_some.mp h
    cases hi
    exact ⟨rfl, encodeXYN_of_opGroup hg hn⟩
  case h_9 hg => exact isWordOf_of_decodeGroup8 hg h
  -- Group D: format XYN.
  case h_14 hg => cases h; exact ⟨decide_eq_true (opN_lt op), encodeXYN_of_opGroup hg rfl⟩
  case h_15 hg => exact isWordOf_of_decodeGroupE hg h
  case h_16 hg => exact isWordOf_of_decodeGroupF hg h
  case h_17 => cases h

/-- Settles O2: a word is made of the digits its decoding reads, whatever its group. -/
theorem encodeOfDecodeIsTheWord : Obligations.EncodeOfDecodeIsTheWord := fun _ _ => isWordOf_of_decodeWord

/-- Decoding and encoding are inverse to each other on well-formed instructions and known words. -/
theorem decodeWord_eq_some_iff {op : Word} {i : Instr} :
    decodeWord op = some i ↔ i.wellFormed = true ∧ encodeWord i = op :=
  ⟨isWordOf_of_decodeWord, fun ⟨hi, hop⟩ => hop ▸ decodeWord_encodeWord hi⟩

end Sys2Proof

namespace Sys2Proof.Machine

/-- Settles O5: each sample is the word of the instruction it stands for, and 0x5001 lies in group 5 with a low digit. -/
theorem sampleWordsDecode : Obligations.SampleWordsDecode :=
  ⟨decodeWord_encodeWord (i := .cls) rfl, decodeWord_encodeWord (i := .jpNnn 0xABC) rfl,
    decodeWord_encodeWord (i := .seVxNn 0xA 0x12) rfl, decodeWord_encodeWord (i := .addVxVy 1 2) rfl,
    decodeWord_encodeWord (i := .ldINnn 0x123) rfl, decodeWord_encodeWord (i := .drwVxVyN 0 1 2) rfl,
    decodeWord_encodeWord (i := .ldVxK 2) rfl, decodeWord_group5_unknown (n := 1) (by omega) (by omega) 0 0⟩

end Sys2Proof.Machine
end

section
/-! The opcode map and the unknown words (30_encoding.md R95, R96): what each mask of the map reads of a word, the row an
instruction stands in, and the words that select no row. -/

namespace Sys2Proof

/-! ### What the masks of the map read -/

theorem opGroup_lt (op : Word) : opGroup op < 16 := by
  have := op.isLt
  rw [opGroup]
  omega

/-- A mask whose high digit is F keeps the group and masks the twelve bits below it. -/
theorem and_toNat_of_mask {m : Word} (hm : m.toNat / 4096 = 2 ^ 4 - 1) (op : Word) :
    (op &&& m).toNat = opGroup op * 4096 + (op.toNat % 4096 &&& m.toNat % 4096) := by
  have hhigh : (op.toNat &&& m.toNat) / 4096 = opGroup op := by
    rw [Nat.and_div_two_pow (n := 12), hm, Nat.and_two_pow_sub_one_eq_mod]
    exact Nat.mod_eq_of_lt (opGroup_lt op)
  rw [BitVec.toNat_and, ← Nat.and_mod_two_pow (n := 12)]
  omega

/-- The mask F000 reads the group. -/
theorem and_F000_eq_iff {op : Word} {g : Nat} (hg : g < 16) :
    op &&& 0xF000 = BitVec.ofNat 16 (g * 4096) ↔ opGroup op = g := by
  have hlow : op.toNat % 4096 &&& 0 = 0 := Nat.and_zero _
  have h : (op &&& 0xF000).toNat = opGroup op * 4096 + (op.toNat % 4096 &&& 0) := and_toNat_of_mask (by decide) op
  have := opGroup_lt op
  rw [← BitVec.toNat_inj, h, BitVec.toNat_ofNat]
  omega

/-- The mask F00F reads the group and the low digit. -/
theorem and_F00F_eq_iff {op : Word} {g n : Nat} (hg : g < 16) (hn : n < 16) :
    op &&& 0xF00F = BitVec.ofNat 16 (g * 4096 + n) ↔ opGroup op = g ∧ opN op = n := by
  have hlow : op.toNat % 4096 &&& 2 ^ 4 - 1 = opN op := by rw [Nat.and_two_pow_sub_one_eq_mod, opN]; omega
  have h : (op &&& 0xF00F).toNat = opGroup op * 4096 + (op.toNat % 4096 &&& 2 ^ 4 - 1) := and_toNat_of_mask (by decide) op
  have := opGroup_lt op
  have := opN_lt op
  rw [← BitVec.toNat_inj, h, hlow, BitVec.toNat_ofNat]
  omega

/-- The mask F0FF reads the group and the low byte. -/
theorem and_F0FF_eq_iff {op : Word} {g f : Nat} (hg : g < 16) (hf : f < 256) :
    op &&& 0xF0FF = BitVec.ofNat 16 (g * 4096 + f) ↔ opGroup op = g ∧ op.toNat % 256 = f := by
  have hlow : op.toNat % 4096 &&& 2 ^ 8 - 1 = op.toNat % 256 := by rw [Nat.and_two_pow_sub_one_eq_mod]; omega
  have h : (op &&& 0xF0FF).toNat = opGroup op * 4096 + (op.toNat % 4096 &&& 2 ^ 8 - 1) := and_toNat_of_mask (by decide) op
  have := opGroup_lt op
  rw [← BitVec.toNat_inj, h, hlow, BitVec.toNat_ofNat]
  omega

/-- The mask FFFF reads the whole word. -/
theorem and_FFFF (op : Word) : op &&& 0xFFFF = op := BitVec.and_allOnes

/-! ### From a row to the instruction it selects -/

/-- The decoder answers an instruction of this name. -/
def DecodesToMnemonic (op : Word) (m : String) : Prop := ∃ i, decodeWord op = some i ∧ i.mnemonic = m

theorem decodesToMnemonic_group8 {op : Word} {n : Nat} (hn : n < 16) {m : String} {row : Reg → Reg → Instr}
    (hrow : ∀ {op : Word}, opN op = n → decodeGroup8 op = some (row (opX op) (opY op)))
    (hm : ∀ x y, (row x y).mnemonic = m) (h : op &&& 0xF00F = BitVec.ofNat 16 (0x8 * 4096 + n)) :
    DecodesToMnemonic op m := by
  obtain ⟨hg, hn⟩ := (and_F00F_eq_iff (by omega) hn).mp h
  exact ⟨_, (decodeWord_of_opGroup_group8 hg).trans (hrow hn), hm _ _⟩

theorem decodesToMnemonic_groupE {op : Word} {f : Nat} (hf : f < 256) {m : String} {row : Reg → Instr}
    (hrow : ∀ {op : Word}, op.toNat % 256 = f → decodeGroupE op = some (row (opX op)))
    (hm : ∀ x, (row x).mnemonic = m) (h : op &&& 0xF0FF = BitVec.ofNat 16 (0xE * 4096 + f)) :
    DecodesToMnemonic op m := by
  obtain ⟨hg, hf⟩ := (and_F0FF_eq_iff (by omega) hf).mp h
  exact ⟨_, (decodeWord_of_opGroup_groupE hg).trans (hrow hf), hm _⟩

theorem decodesToMnemonic_groupF {op : Word} {f : Nat} (hf : f < 256) {m : String} {row : Reg → Instr}
    (hrow : ∀ {op : Word}, op.toNat % 256 = f → decodeGroupF op = some (row (opX op)))
    (hm : ∀ x, (row x).mnemonic = m) (h : op &&& 0xF0FF = BitVec.ofNat 16 (0xF * 4096 + f)) :
    DecodesToMnemonic op m := by
  obtain ⟨hg, hf⟩ := (and_F0FF_eq_iff (by omega) hf).mp h
  exact ⟨_, (decodeWord_of_opGroup_groupF hg).trans (hrow hf), hm _⟩

theorem decodesToMnemonic_rowsLow (op : Word) :
    ∀ r ∈ opcodeRowsLow, op &&& r.mask = r.pattern → DecodesToMnemonic op r.mnemonic := by
  simp only [opcodeRowsLow, List.forall_mem_cons, List.not_mem_nil, false_implies, implies_true, and_true,
    and_FFFF]
  refine ⟨?cls, ?ret, ?jp, ?call, ?seNn, ?sneNn, ?seVy, ?ldNn, ?addNn⟩
  case cls => rintro rfl; exact ⟨.cls, rfl, rfl⟩
  case ret => rintro rfl; exact ⟨.ret, rfl, rfl⟩
  case jp => exact fun h => ⟨_, decodeWord_of_opGroup_jpNnn ((and_F000_eq_iff (by omega)).mp h), rfl⟩
  case call => exact fun h => ⟨_, decodeWord_of_opGroup_callNnn ((and_F000_eq_iff (by omega)).mp h), rfl⟩
  case seNn => exact fun h => ⟨_, decodeWord_of_opGroup_seVxNn ((and_F000_eq_iff (by omega)).mp h), rfl⟩
  case sneNn => exact fun h => ⟨_, decodeWord_of_opGroup_sneVxNn ((and_F000_eq_iff (by omega)).mp h), rfl⟩
  case seVy =>
    intro h
    obtain ⟨hg, hn⟩ := (and_F00F_eq_iff (g := 5) (n := 0) (by omega) (by omega)).mp h
    exact ⟨_, (decodeWord_of_opGroup_seVxVy hg).trans (if_pos hn), rfl⟩
  case ldNn => exact fun h => ⟨_, decodeWord_of_opGroup_ldVxNn ((and_F000_eq_iff (by omega)).mp h), rfl⟩
  case addNn => exact fun h => ⟨_, decodeWord_of_opGroup_addVxNn ((and_F000_eq_iff (by omega)).mp h), rfl⟩

theorem decodesToMnemonic_rowsGroup8 (op : Word) :
    ∀ r ∈ opcodeRowsGroup8, op &&& r.mask = r.pattern → DecodesToMnemonic op r.mnemonic := by
  simp only [opcodeRowsGroup8, List.forall_mem_cons, List.not_mem_nil, false_implies, implies_true, and_true]
  exact ⟨decodesToMnemonic_group8 (by omega) decodeGroup8_of_opN_ldVxVy fun _ _ => rfl,
    decodesToMnemonic_group8 (by omega) decodeGroup8_of_opN_orVxVy fun _ _ => rfl,
    decodesToMnemonic_group8 (by omega) decodeGroup8_of_opN_andVxVy fun _ _ => rfl,
    decodesToMnemonic_group8 (by omega) decodeGroup8_of_opN_xorVxVy fun _ _ => rfl,
    decodesToMnemonic_group8 (by omega) decodeGroup8_of_opN_addVxVy fun _ _ => rfl,
    decodesToMnemonic_group8 (by omega) decodeGroup8_of_opN_subVxVy fun _ _ => rfl,
    decodesToMnemonic_group8 (by omega) decodeGroup8_of_opN_shrVx fun _ _ => rfl,
    decodesToMnemonic_group8 (by omega) decodeGroup8_of_opN_subnVxVy fun _ _ => rfl,
    decodesToMnemonic_group8 (by omega) decodeGroup8_of_opN_shlVx fun _ _ => rfl⟩

theorem decodesToMnemonic_rowsMid (op : Word) :
    ∀ r ∈ opcodeRowsMid, op &&& r.mask = r.pattern → DecodesToMnemonic op r.mnemonic := by
  simp only [opcodeRowsMid, List.forall_mem_cons, List.not_mem_nil, false_implies, implies_true, and_true]
  refine ⟨?sneVy, ?ldI, ?jpV0, ?rnd, ?drw, ?skp, ?sknp⟩
  case sneVy =>
    intro h
    obtain ⟨hg, hn⟩ := (and_F00F_eq_iff (g := 9) (n := 0) (by omega) (by omega)).mp h
    exact ⟨_, (decodeWord_of_opGroup_sneVxVy hg).trans (if_pos hn), rfl⟩
  case ldI => exact fun h => ⟨_, decodeWord_of_opGroup_ldINnn ((and_F000_eq_iff (by omega)).mp h), rfl⟩
  case jpV0 => exact fun h => ⟨_, decodeWord_of_opGroup_jpV0Nnn ((and_F000_eq_iff (by omega)).mp h), rfl⟩
  case rnd => exact fun h => ⟨_, decodeWord_of_opGroup_rndVxNn ((and_F000_eq_iff (by omega)).mp h), rfl⟩
  case drw => exact fun h => ⟨_, decodeWord_of_opGroup_drwVxVyN ((and_F000_eq_iff (by omega)).mp h), rfl⟩
  case skp => exact decodesToMnemonic_groupE (by omega) decodeGroupE_of_mod_skpVx fun _ => rfl
  case sknp => exact decodesToMnemonic_groupE (by omega) decodeGroupE_of_mod_sknpVx fun _ => rfl

theorem decodesToMnemonic_rowsGroupF (op : Word) :
    ∀ r ∈ opcodeRowsGroupF, op &&& r.mask = r.pattern → DecodesToMnemonic op r.mnemonic := by
  simp only [opcodeRowsGroupF, List.forall_mem_cons, List.not_mem_nil, false_implies, implies_true, and_true]
  exact ⟨decodesToMnemonic_groupF (by omega) decodeGroupF_of_mod_ldVxDt fun _ => rfl,
    decodesToMnemonic_groupF (by omega) decodeGroupF_of_mod_ldVxK fun _ => rfl,
    decodesToMnemonic_groupF (by omega) decodeGroupF_of_mod_ldDtVx fun _ => rfl,
    decodesToMnemonic_groupF (by omega) decodeGroupF_of_mod_ldStVx fun _ => rfl,
    decodesToMnemonic_groupF (by omega) decodeGroupF_of_mod_addIVx fun _ => rfl,
    decodesToMnemonic_groupF (by omega) decodeGroupF_of_mod_ldFVx fun _ => rfl,
    decodesToMnemonic_groupF (by omega) decodeGroupF_of_mod_ldBVx fun _ => rfl,
    decodesToMnemonic_groupF (by omega) decodeGroupF_of_mod_ldMemIVx fun _ => rfl,
    decodesToMnemonic_groupF (by omega) decodeGroupF_of_mod_ldVxMemI fun _ => rfl⟩

/-- A word that a row's mask and match select decodes to the row's instruction. -/
theorem decodesToMnemonic_of_mask {op : Word} {r : OpcodeRow} (hr : r ∈ opcodeRows) (h : op &&& r.mask = r.pattern) :
    DecodesToMnemonic op r.mnemonic := by
  simp only [opcodeRows, List.mem_append, or_assoc] at hr
  rcases hr with hr | hr | hr | hr
  · exact decodesToMnemonic_rowsLow op r hr h
  · exact decodesToMnemonic_rowsGroup8 op r hr h
  · exact decodesToMnemonic_rowsMid op r hr h
  · exact decodesToMnemonic_rowsGroupF op r hr h

/-! ### From an instruction to its row -/

theorem and_F000_encodeA {g : Nat} (hg : g < 16) {nnn : Word} (h : addressFits nnn = true) :
    encodeA g nnn &&& 0xF000 = BitVec.ofNat 16 (g * 4096) :=
  (and_F000_eq_iff hg).mpr (Laws.group_A hg h)

theorem and_F000_encodeXI {g : Nat} (hg : g < 16) (x : Reg) (nn : Byte) :
    encodeXI g x nn &&& 0xF000 = BitVec.ofNat 16 (g * 4096) :=
  (and_F000_eq_iff hg).mpr (Laws.group_XI hg x nn)

theorem and_F000_encodeXYN {g n : Nat} (hg : g < 16) (hn : n < 16) (x y : Reg) :
    encodeXYN g x y n &&& 0xF000 = BitVec.ofNat 16 (g * 4096) :=
  (and_F000_eq_iff hg).mpr (Laws.group_XYN hg hn x y)

theorem and_F00F_encodeXYN {g n : Nat} (hg : g < 16) (hn : n < 16) (x y : Reg) :
    encodeXYN g x y n &&& 0xF00F = BitVec.ofNat 16 (g * 4096 + n) :=
  (and_F00F_eq_iff hg hn).mpr ⟨Laws.group_XYN hg hn x y, opN_encodeXYN hg hn x y⟩

theorem and_F0FF_encodeXF {g f : Nat} (hg : g < 16) (hf : f < 256) (x : Reg) :
    encodeXF g x f &&& 0xF0FF = BitVec.ofNat 16 (g * 4096 + f) :=
  (and_F0FF_eq_iff hg hf).mpr ⟨Laws.group_XF hg hf x, encodeXF_toNat_mod hg hf x⟩

/-- A row of the map carries this instruction's name and selects its word. -/
def HasRow (i : Instr) : Prop := ∃ r ∈ opcodeRows, r.mnemonic = i.mnemonic ∧ encodeWord i &&& r.mask = r.pattern

/-- The row of number `k`, counted from 0, is the instruction's. -/
theorem hasRow_of_getElem? {i : Instr} {mask pattern : Word} (k : Nat)
    (hk : opcodeRows[k]? = some ⟨i.mnemonic, mask, pattern⟩) (h : encodeWord i &&& mask = pattern) : HasRow i :=
  ⟨_, List.mem_of_getElem? hk, rfl, h⟩

theorem hasRow_of_wellFormed {i : Instr} (h : i.wellFormed = true) : HasRow i := by
  cases i with
  | cls => exact hasRow_of_getElem? 0 rfl rfl
  | ret => exact hasRow_of_getElem? 1 rfl rfl
  | jpNnn => exact hasRow_of_getElem? 2 rfl (and_F000_encodeA (by omega) h)
  | callNnn => exact hasRow_of_getElem? 3 rfl (and_F000_encodeA (by omega) h)
  | seVxNn x nn => exact hasRow_of_getElem? 4 rfl (and_F000_encodeXI (by omega) x nn)
  | sneVxNn x nn => exact hasRow_of_getElem? 5 rfl (and_F000_encodeXI (by omega) x nn)
  | seVxVy x y => exact hasRow_of_getElem? 6 rfl (and_F00F_encodeXYN (by omega) (by omega) x y)
  | ldVxNn x nn => exact hasRow_of_getElem? 7 rfl (and_F000_encodeXI (by omega) x nn)
  | addVxNn x nn => exact hasRow_of_getElem? 8 rfl (and_F000_encodeXI (by omega) x nn)
  | ldVxVy x y => exact hasRow_of_getElem? 9 rfl (and_F00F_encodeXYN (by omega) (by omega) x y)
  | orVxVy x y => exact hasRow_of_getElem? 10 rfl (and_F00F_encodeXYN (by omega) (by omega) x y)
  | andVxVy x y => exact hasRow_of_getElem? 11 rfl (and_F00F_encodeXYN (by omega) (by omega) x y)
  | xorVxVy x y => exact hasRow_of_getElem? 12 rfl (and_F00F_encodeXYN (by omega) (by omega) x y)
  | addVxVy x y => exact hasRow_of_getElem? 13 rfl (and_F00F_encodeXYN (by omega) (by omega) x y)
  | subVxVy x y => exact hasRow_of_getElem? 14 rfl (and_F00F_encodeXYN (by omega) (by omega) x y)
  | shrVx x y => exact hasRow_of_getElem? 15 rfl (and_F00F_encodeXYN (by omega) (by omega) x y)
  | subnVxVy x y => exact hasRow_of_getElem? 16 rfl (and_F00F_encodeXYN (by omega) (by omega) x y)
  | shlVx x y => exact hasRow_of_getElem? 17 rfl (and_F00F_encodeXYN (by omega) (by omega) x y)
  | sneVxVy x y => exact hasRow_of_getElem? 18 rfl (and_F00F_encodeXYN (by omega) (by omega) x y)
  | ldINnn => exact hasRow_of_getElem? 19 rfl (and_F000_encodeA (by omega) h)
  | jpV0Nnn => exact hasRow_of_getElem? 20 rfl (and_F000_encodeA (by omega) h)
  | rndVxNn x nn => exact hasRow_of_getElem? 21 rfl (and_F000_encodeXI (by omega) x nn)
  | drwVxVyN x y => exact hasRow_of_getElem? 22 rfl (and_F000_encodeXYN (by omega) (of_decide_eq_true h) x y)
  | skpVx x => exact hasRow_of_getElem? 23 rfl (and_F0FF_encodeXF (by omega) (by omega) x)
  | sknpVx x => exact hasRow_of_getElem? 24 rfl (and_F0FF_encodeXF (by omega) (by omega) x)
  | ldVxDt x => exact hasRow_of_getElem? 25 rfl (and_F0FF_encodeXF (by omega) (by omega) x)
  | ldVxK x => exact hasRow_of_getElem? 26 rfl (and_F0FF_encodeXF (by omega) (by omega) x)
  | ldDtVx x => exact hasRow_of_getElem? 27 rfl (and_F0FF_encodeXF (by omega) (by omega) x)
  | ldStVx x => exact hasRow_of_getElem? 28 rfl (and_F0FF_encodeXF (by omega) (by omega) x)
  | addIVx x => exact hasRow_of_getElem? 29 rfl (and_F0FF_encodeXF (by omega) (by omega) x)
  | ldFVx x => exact hasRow_of_getElem? 30 rfl (and_F0FF_encodeXF (by omega) (by omega) x)
  | ldBVx x => exact hasRow_of_getElem? 31 rfl (and_F0FF_encodeXF (by omega) (by omega) x)
  | ldMemIVx x => exact hasRow_of_getElem? 32 rfl (and_F0FF_encodeXF (by omega) (by omega) x)
  | ldVxMemI x => exact hasRow_of_getElem? 33 rfl (and_F0FF_encodeXF (by omega) (by omega) x)

theorem opcodeRows_mnemonics_nodup : (opcodeRows.map OpcodeRow.mnemonic).Nodup := by decide

/-- A row is determined by its name. -/
theorem opcodeRow_eq_of_mnemonic {r q : OpcodeRow} (hr : r ∈ opcodeRows) (hq : q ∈ opcodeRows)
    (h : r.mnemonic = q.mnemonic) : r = q :=
  List.inj_on_of_nodup_map opcodeRows_mnemonics_nodup hr hq h

/-- Settles O3: a row's mask reads the digits the decoder tests, and a decoded word is the word of an instruction whose own row
is the only one of its name. -/
theorem decoderSelectsRowsByMaskAndMatch : Obligations.DecoderSelectsRowsByMaskAndMatch := by
  refine fun op r hr => ⟨decodesToMnemonic_of_mask hr, ?_⟩
  rintro ⟨i, hi, hm⟩
  obtain ⟨hwf, rfl⟩ := decodeWord_eq_some_iff.mp hi
  obtain ⟨q, hq, hqm, hsel⟩ := hasRow_of_wellFormed hwf
  obtain rfl := opcodeRow_eq_of_mnemonic hq hr (hqm.trans hm)
  exact hsel

/-! ### The words that select no row -/

theorem decodeGroup0_eq_none_iff {op : Word} : decodeGroup0 op = none ↔ op.toNat ≠ 0x00E0 ∧ op.toNat ≠ 0x00EE := by
  unfold decodeGroup0
  split <;> simp_all

theorem decodeGroup8_eq_none_iff {op : Word} :
    decodeGroup8 op = none ↔ opN op ∈ [0x8, 0x9, 0xA, 0xB, 0xC, 0xD, 0xF] := by
  have hlt := opN_lt op
  unfold decodeGroup8
  generalize opN op = n at hlt
  interval_cases n <;> simp

theorem decodeGroupE_eq_none_iff {op : Word} : decodeGroupE op = none ↔ op.toNat % 256 ∉ [0x9E, 0xA1] := by
  unfold decodeGroupE
  split <;> simp_all

theorem decodeGroupF_eq_none_iff {op : Word} :
    decodeGroupF op = none ↔ op.toNat % 256 ∉ [0x07, 0x0A, 0x15, 0x18, 0x1E, 0x29, 0x33, 0x55, 0x65] := by
  unfold decodeGroupF
  split <;> simp_all

/-- The unknown words of each group; a group whose digits are all operands has none. -/
theorem decodeWord_eq_none_iff {op : Word} :
    decodeWord op = none ↔
      (opGroup op = 0x0 ∧ decodeGroup0 op = none) ∨ (opGroup op = 0x5 ∧ opN op ≠ 0) ∨
      (opGroup op = 0x8 ∧ decodeGroup8 op = none) ∨ (opGroup op = 0x9 ∧ opN op ≠ 0) ∨
      (opGroup op = 0xE ∧ decodeGroupE op = none) ∨ (opGroup op = 0xF ∧ decodeGroupF op = none) := by
  have hlt := opGroup_lt op
  unfold decodeWord
  generalize opGroup op = g at hlt
  interval_cases g <;> simp

/-- Settles O4: group by group, the words whose fixed digits are none of the rows'. -/
theorem unknownWordsAreThoseOfTheTable : Obligations.UnknownWordsAreThoseOfTheTable := by
  intro op
  rw [decodeWord_eq_none_iff, decodeGroup0_eq_none_iff, decodeGroup8_eq_none_iff, decodeGroupE_eq_none_iff,
    decodeGroupF_eq_none_iff]
  exact Iff.rfl

end Sys2Proof
end

section
/-! What `exec` answers for the instructions the sections above do not read yet: one equation a case, and for those that can
raise what their completion leaves. -/

namespace Sys2Proof.Machine

/-! ### Instructions that always complete -/

theorem exec_cls (s : State) : exec .cls s = .next (s.setFb Framebuffer.blank).advance := rfl

theorem exec_sneVxVy (x y : Reg) (s : State) :
    exec (.sneVxVy x y) s = .next (s.skipIf (decide (s.getV x ≠ s.getV y))) := rfl

theorem exec_addVxVy (x y : Reg) (s : State) :
    exec (.addVxVy x y) s =
      .next ((s.setV x (s.getV x + s.getV y)).setV VF (carryFlag (s.getV x) (s.getV y))).advance := rfl

theorem exec_subVxVy (x y : Reg) (s : State) :
    exec (.subVxVy x y) s =
      let s₁ := s.setV VF (noBorrowFlag (s.getV x) (s.getV y))
      .next (s₁.setV x (s₁.getV x - s₁.getV y)).advance := rfl

theorem exec_shrVx (x y : Reg) (s : State) :
    exec (.shrVx x y) s =
      let s₁ := s.setV VF (lowBitFlag (s.getV x))
      .next (s₁.setV x (s₁.getV x >>> 1)).advance := rfl

theorem exec_subnVxVy (x y : Reg) (s : State) :
    exec (.subnVxVy x y) s =
      let s₁ := s.setV VF (noBorrowFlag (s.getV y) (s.getV x))
      .next (s₁.setV x (s₁.getV y - s₁.getV x)).advance := rfl

theorem exec_shlVx (x y : Reg) (s : State) :
    exec (.shlVx x y) s =
      let s₁ := s.setV VF (highBitFlag (s.getV x))
      .next (s₁.setV x (s₁.getV x <<< 1)).advance := rfl

theorem execWith_rndVxNn (rand : Byte) (x : Reg) (nn : Byte) (s : State) :
    execWith rand (.rndVxNn x nn) s = .next (s.setV x (rand &&& nn)).advance := rfl

theorem exec_rndVxNn (x : Reg) (nn : Byte) (s : State) :
    exec (.rndVxNn x nn) s = .next (s.setV x (Config.randomByte s.draws &&& nn)).advance := rfl

theorem exec_addIVx (x : Reg) (s : State) :
    exec (.addIVx x) s = .next (s.setI (indexPlus s.i (s.getV x))).advance := rfl

theorem exec_ldFVx (x : Reg) (s : State) : exec (.ldFVx x) s = .next (s.setI (glyphAddr (s.getV x))).advance := rfl

theorem exec_ldVxK_idle {s : State} (x : Reg) (h : leastPressed s = none) : exec (.ldVxK x) s = .next s := by
  rw [exec, execLdVxK, h]

theorem exec_ldVxK_pressed {s : State} (x : Reg) {k : Reg} (h : leastPressed s = some k) :
    exec (.ldVxK x) s = .next (s.setV x (keyValue s.fx0aMode k)).advance := by
  rw [exec, execLdVxK, h]

/-- A poll changes nothing, or writes one register and moves on (R181). -/
theorem exec_ldVxK_cases (x : Reg) (s : State) :
    exec (.ldVxK x) s = .next s ∨ ∃ b, exec (.ldVxK x) s = .next (s.setV x b).advance := by
  cases h : leastPressed s with
  | none => exact .inl (exec_ldVxK_idle x h)
  | some k => exact .inr ⟨_, exec_ldVxK_pressed x h⟩

/-! ### The return -/

theorem exec_ret_entry {s : State} (h : 0 < s.sp.val) :
    exec .ret s = .next ((s.setStack s.stack ⟨s.sp.val - 1, by omega⟩).setPc s.stack[s.sp.val - 1]) := by
  rw [exec, execRet, State.pop_some h]

theorem exec_ret_empty {s : State} (h : s.sp.val = 0) : exec .ret s = .fault .stackUnderflow := by
  rw [exec, execRet, State.pop_empty h, raise]

theorem exec_ret_eq_next {s t : State} (h : exec .ret s = .next t) :
    ∃ hp : 0 < s.sp.val, t = (s.setStack s.stack ⟨s.sp.val - 1, by omega⟩).setPc s.stack[s.sp.val - 1] := by
  by_cases hp : 0 < s.sp.val
  · exact ⟨hp, (Host.Outcome.next.inj ((exec_ret_entry hp).symm.trans h)).symm⟩
  · cases (exec_ret_empty (by omega)).symm.trans h

theorem exec_callNnn_eq_next {s t : State} {nnn : Word} (h : exec (.callNnn nnn) s = .next t) :
    ∃ hr : s.sp.val < 16,
      t = (s.setStack (s.stack.set s.sp.val (returnAddress s)) ⟨s.sp.val + 1, by omega⟩).setPc nnn := by
  by_cases hr : s.sp.val < 16
  · exact ⟨hr, (Host.Outcome.next.inj ((exec_callNnn_room nnn hr).symm.trans h)).symm⟩
  · cases (exec_callNnn_full nnn (by omega)).symm.trans h

/-! ### The key skips -/

theorem exec_skpVx (x : Reg) (s : State) :
    exec (.skpVx x) s = withKey x s fun k => .next (s.skipIf (s.getKey k)) := rfl

theorem exec_sknpVx (x : Reg) (s : State) :
    exec (.sknpVx x) s = withKey x s fun k => .next (s.skipIf (!s.getKey k)) := rfl

theorem withKey_of_toNat {x j : Reg} {s : State} (k : Reg → Result) (h : (s.getV x).toNat = j.val) :
    withKey x s k = k j := by
  have hx : (s.getV x).toNat < 16 := h ▸ j.isLt
  rw [withKey_inside hx, show (⟨_, hx⟩ : Reg) = j from Fin.ext h]

/-- A checked key that completes is the one `V[X]` names. -/
theorem withKey_next_eq_next {x : Reg} {s t : State} {u : Reg → State} (h : withKey x s (fun k => .next (u k)) = .next t) :
    ∃ k, t = u k := by
  by_cases hx : (s.getV x).toNat < 16
  · exact ⟨_, (Host.Outcome.next.inj ((withKey_inside hx).symm.trans h)).symm⟩
  · cases (withKey_outside hx).symm.trans h

theorem exec_skpVx_eq_next {s t : State} {x : Reg} (h : exec (.skpVx x) s = .next t) : ∃ b, t = s.skipIf b := by
  obtain ⟨k, rfl⟩ := withKey_next_eq_next ((exec_skpVx x s).symm.trans h)
  exact ⟨_, rfl⟩

theorem exec_sknpVx_eq_next {s t : State} {x : Reg} (h : exec (.sknpVx x) s = .next t) : ∃ b, t = s.skipIf b := by
  obtain ⟨k, rfl⟩ := withKey_next_eq_next ((exec_sknpVx x s).symm.trans h)
  exact ⟨_, rfl⟩

/-! ### Instructions that check a run of bytes at `I` -/

/-- What DXYN leaves where its rows are inside the memory. -/
def State.drawn (s : State) (x y : Reg) (n : Nat) : State :=
  let d := drawRows s (s.getV x).toNat (s.getV y).toNat n
  ((s.setFb d.1).setV VF (collisionFlag d.2)).advance

theorem exec_drwVxVyN (x y : Reg) (n : Nat) (s : State) :
    exec (.drwVxVyN x y n) s = withRun s.i.toNat n s (.next (s.drawn x y n)) := rfl

theorem exec_ldBVx (x : Reg) (s : State) :
    exec (.ldBVx x) s = withRun s.i.toNat 3 s (.next (s.writeBytes s.i.toNat (bcdDigits (s.getV x))).advance) := rfl

theorem exec_ldMemIVx (x : Reg) (s : State) :
    exec (.ldMemIVx x) s =
      withRun s.i.toNat (x.val + 1) s (.next (s.writeBytes s.i.toNat (firstRegs s (x.val + 1))).advance) := rfl

theorem exec_ldVxMemI (x : Reg) (s : State) :
    exec (.ldVxMemI x) s = withRun s.i.toNat (x.val + 1) s (.next (loadRegs s (x.val + 1)).advance) := rfl

/-- A checked run that completes leaves its continuation's state. -/
theorem withRun_next_eq_next {base n : Nat} {s u t : State} (h : withRun base n s (.next u) = .next t) :
    RunFits base n ∧ t = u := by
  obtain ⟨hf, hu⟩ := withRun_eq_next h
  exact ⟨hf, (Host.Outcome.next.inj hu).symm⟩

theorem exec_drwVxVyN_eq_next {s t : State} {x y : Reg} {n : Nat} (h : exec (.drwVxVyN x y n) s = .next t) :
    RunFits s.i.toNat n ∧ t = s.drawn x y n :=
  withRun_next_eq_next ((exec_drwVxVyN x y n s).symm.trans h)

theorem exec_ldBVx_eq_next {s t : State} {x : Reg} (h : exec (.ldBVx x) s = .next t) :
    RunFits s.i.toNat 3 ∧ t = (s.writeBytes s.i.toNat (bcdDigits (s.getV x))).advance :=
  withRun_next_eq_next ((exec_ldBVx x s).symm.trans h)

theorem exec_ldMemIVx_eq_next {s t : State} {x : Reg} (h : exec (.ldMemIVx x) s = .next t) :
    RunFits s.i.toNat (x.val + 1) ∧ t = (s.writeBytes s.i.toNat (firstRegs s (x.val + 1))).advance :=
  withRun_next_eq_next ((exec_ldMemIVx x s).symm.trans h)

theorem exec_ldVxMemI_eq_next {s t : State} {x : Reg} (h : exec (.ldVxMemI x) s = .next t) :
    RunFits s.i.toNat (x.val + 1) ∧ t = (loadRegs s (x.val + 1)).advance :=
  withRun_next_eq_next ((exec_ldVxMemI x s).symm.trans h)

/-! ### Which error, and when -/

/-- The instruction completes where the spec lists no error for it, and raises the listed one where it does. -/
def ExecutesAsListed (rand : Byte) (i : Instr) (s : State) : Prop :=
  (executionFault i s = none ∧ ∃ t, execWith rand i s = .next t) ∨
    ∃ f, executionFault i s = some f ∧ execWith rand i s = .fault f

theorem executesAsListed_of_run {rand : Byte} {i : Instr} {s t : State} {n : Nat}
    (hexec : execWith rand i s = withRun s.i.toNat n s (.next t))
    (hlisted : executionFault i s =
      if RunFits s.i.toNat n then none else some (.addressOutOfBounds (max s.i.toNat 4096) s.pc)) :
    ExecutesAsListed rand i s := by
  by_cases hf : RunFits s.i.toNat n
  · exact .inl ⟨hlisted.trans (if_pos hf), t, hexec.trans (withRun_fits hf)⟩
  · exact .inr ⟨_, hlisted.trans (if_neg hf), hexec.trans (withRun_outside hf)⟩

theorem executesAsListed_of_key {rand : Byte} {i : Instr} {s : State} {x : Reg} {u : Reg → State}
    (hexec : execWith rand i s = withKey x s fun k => .next (u k))
    (hlisted : executionFault i s =
      if 15 < (s.getV x).toNat then some (.keyIndexOutOfRange (s.getV x) s.pc) else none) :
    ExecutesAsListed rand i s := by
  by_cases hx : (s.getV x).toNat < 16
  · exact .inl ⟨hlisted.trans (if_neg (by omega)), _, hexec.trans (withKey_inside hx)⟩
  · exact .inr ⟨_, hlisted.trans (if_pos (by omega)), hexec.trans (withKey_outside hx)⟩

theorem executesAsListed (rand : Byte) (i : Instr) (s : State) : ExecutesAsListed rand i s := by
  cases i with
  | cls | jpNnn | seVxNn | sneVxNn | seVxVy | ldVxNn | addVxNn | ldVxVy | orVxVy | andVxVy | xorVxVy | addVxVy | subVxVy
  | shrVx | subnVxVy | shlVx | sneVxVy | ldINnn | jpV0Nnn | rndVxNn | ldVxDt | ldDtVx | ldStVx | addIVx | ldFVx =>
    exact .inl ⟨rfl, _, rfl⟩
  | ldVxK x =>
    rcases exec_ldVxK_cases x s with h | ⟨b, h⟩
    · exact .inl ⟨rfl, _, h⟩
    · exact .inl ⟨rfl, _, h⟩
  | ret =>
    by_cases h : s.sp.val = 0
    · exact .inr ⟨_, if_pos h, exec_ret_empty h⟩
    · exact .inl ⟨if_neg h, _, exec_ret_entry (by omega)⟩
  | callNnn nnn =>
    by_cases h : s.sp.val = 16
    · exact .inr ⟨_, if_pos h, exec_callNnn_full nnn h⟩
    · exact .inl ⟨if_neg h, _, exec_callNnn_room nnn (by omega)⟩
  | drwVxVyN x y n => exact executesAsListed_of_run (exec_drwVxVyN x y n s) (by grind [executionFault])
  | ldBVx x => exact executesAsListed_of_run (exec_ldBVx x s) (by grind [executionFault])
  | ldMemIVx x => exact executesAsListed_of_run (exec_ldMemIVx x s) (by grind [executionFault])
  | ldVxMemI x => exact executesAsListed_of_run (exec_ldVxMemI x s) (by grind [executionFault])
  | skpVx x => exact executesAsListed_of_key (exec_skpVx x s) rfl
  | sknpVx x => exact executesAsListed_of_key (exec_sknpVx x s) rfl

theorem exists_execWith_next_iff {rand : Byte} {i : Instr} {s : State} :
    (∃ t, execWith rand i s = .next t) ↔ executionFault i s = none := by
  rcases executesAsListed rand i s with ⟨hn, ht⟩ | ⟨f, hf, hx⟩
  · exact iff_of_true ht hn
  · exact iff_of_false (by simp [hx]) (by simp [hf])

theorem execWith_eq_fault_iff {rand : Byte} {i : Instr} {s : State} {f : Fault} :
    execWith rand i s = .fault f ↔ executionFault i s = some f := by
  rcases executesAsListed rand i s with ⟨hn, t, ht⟩ | ⟨g, hg, hx⟩
  · exact iff_of_false (by simp [ht]) (by simp [hn])
  · simp [hx, hg]

/-- Settles O44: each instruction by its one condition, the bounds checks and the key check through their shared operations. -/
theorem errorsAreExactlyTheListedOnes : Obligations.ErrorsAreExactlyTheListedOnes := by
  intro i s
  rw [← execWith_randomByte]
  exact ⟨exists_execWith_next_iff, fun _ => execWith_eq_fault_iff⟩

end Sys2Proof.Machine
end

section
/-! What an instruction that completes changes (10_state.md R20 to R25, 20_memory.md R66, R67): the items it may write, then the
registers and the bytes. Said of `execWith`, for every `rand`, so that it holds of `exec` and of a STEP with a given `rand`. -/

namespace Sys2Proof.Machine

theorem sameExcept_setV_advance (s : State) (x : Reg) (b : Byte) : SameExcept [.v, .pc] s (s.setV x b).advance :=
  (sameExcept_setV s x b).append (sameExcept_advance _)

theorem sameExcept_setV_setV_advance (s : State) (x y : Reg) (b c : Byte) :
    SameExcept [.v, .pc] s ((s.setV x b).setV y c).advance :=
  ((sameExcept_setV s x b).trans (sameExcept_setV _ y c)).append (sameExcept_advance _)

theorem sameExcept_writeBytes_advance (s : State) (base : Nat) (bs : List Byte) :
    SameExcept [.mem, .pc] s (s.writeBytes base bs).advance :=
  (sameExcept_writeBytes s base bs).append (sameExcept_advance _)

theorem sameExcept_drawn (s : State) (x y : Reg) (n : Nat) : SameExcept [.fb, .v, .pc] s (s.drawn x y n) :=
  ((sameExcept_setFb s _).append (sameExcept_setV _ VF _)).append (sameExcept_advance _)

/-- The frame of every instruction: the frames of the updates it makes, composed. -/
theorem execWith_sameExcept {rand : Byte} {i : Instr} {s t : State} (h : execWith rand i s = .next t) :
    SameExcept (writtenParts i) s t := by
  cases i with
  | cls => cases h; exact (sameExcept_setFb s _).append (sameExcept_advance _)
  | ret =>
    obtain ⟨_, rfl⟩ := exec_ret_eq_next h
    exact (sameExcept_setSp s _).append (sameExcept_setPc _ _)
  | callNnn =>
    obtain ⟨_, rfl⟩ := exec_callNnn_eq_next h
    exact (sameExcept_setStack s _ _).append (sameExcept_setPc _ _)
  | jpNnn | jpV0Nnn | seVxNn | sneVxNn | seVxVy | sneVxVy => cases h; exact sameExcept_setPc s _
  | skpVx x =>
    obtain ⟨_, rfl⟩ := exec_skpVx_eq_next h
    exact sameExcept_skipIf s _
  | sknpVx x =>
    obtain ⟨_, rfl⟩ := exec_sknpVx_eq_next h
    exact sameExcept_skipIf s _
  | ldVxNn | addVxNn | ldVxVy | orVxVy | andVxVy | xorVxVy | rndVxNn | ldVxDt => cases h; exact sameExcept_setV_advance s _ _
  | addVxVy | subVxVy | shrVx | subnVxVy | shlVx => cases h; exact sameExcept_setV_setV_advance s _ _ _ _
  | ldVxK x =>
    rcases exec_ldVxK_cases x s with hx | ⟨b, hx⟩
    · cases hx.symm.trans h; exact .refl _ _
    · cases hx.symm.trans h; exact sameExcept_setV_advance s x b
  | ldVxMemI =>
    obtain ⟨_, rfl⟩ := exec_ldVxMemI_eq_next h
    exact (sameExcept_loadRegs s _).append (sameExcept_advance _)
  | ldINnn | addIVx | ldFVx => cases h; exact sameExcept_setI_advance s _
  | drwVxVyN x y n =>
    obtain ⟨_, rfl⟩ := exec_drwVxVyN_eq_next h
    exact sameExcept_drawn s x y n
  | ldDtVx => cases h; exact sameExcept_setDelay_advance s _
  | ldStVx => cases h; exact sameExcept_setSound_advance s _
  | ldBVx => obtain ⟨_, rfl⟩ := exec_ldBVx_eq_next h; exact sameExcept_writeBytes_advance s _ _
  | ldMemIVx => obtain ⟨_, rfl⟩ := exec_ldMemIVx_eq_next h; exact sameExcept_writeBytes_advance s _ _

theorem exec_sameExcept {i : Instr} {s t : State} (h : exec i s = .next t) : SameExcept (writtenParts i) s t :=
  execWith_sameExcept ((execWith_randomByte i s).trans h)

/-- Settles O42: the frame of every instruction. -/
theorem onlyListedStateChanges : Obligations.OnlyListedStateChanges := fun _ _ _ => exec_sameExcept

/-! ### Destination registers -/

theorem getV_setV_advance_other (s : State) {x j : Reg} (b : Byte) (h : j ≠ x) : (s.setV x b).advance.getV j = s.getV j :=
  s.getV_setV_other b h

theorem getV_setV_setV_advance_other (s : State) {x y j : Reg} (b c : Byte) (hx : j ≠ x) (hy : j ≠ y) :
    ((s.setV x b).setV y c).advance.getV j = s.getV j :=
  (State.getV_setV_other _ c hy).trans (s.getV_setV_other b hx)

theorem getV_drawn_other (s : State) (x y : Reg) (n : Nat) {j : Reg} (h : j ≠ VF) : (s.drawn x y n).getV j = s.getV j :=
  State.getV_setV_other _ _ h

/-- A register that is no destination of the instruction keeps its value. -/
theorem exec_getV_of_not_writesReg {i : Instr} {s t : State} (h : exec i s = .next t) {j : Reg} (hj : ¬ writesReg i j) :
    t.getV j = s.getV j := by
  cases i with
  | cls | ret | jpNnn | callNnn | seVxNn | sneVxNn | seVxVy | sneVxVy | ldINnn | jpV0Nnn | skpVx | sknpVx | ldDtVx | ldStVx
  | addIVx | ldFVx | ldBVx | ldMemIVx => exact exec_sameExcept h .v (by simp [writtenParts]) j
  | ldVxNn | addVxNn | rndVxNn | ldVxVy | orVxVy | andVxVy | xorVxVy | ldVxDt =>
    cases h; exact getV_setV_advance_other s _ hj
  | addVxVy =>
    obtain ⟨hx, hf⟩ := not_or.mp hj
    cases h
    exact getV_setV_setV_advance_other s _ _ hx hf
  | subVxVy | shrVx | subnVxVy | shlVx =>
    obtain ⟨hx, hf⟩ := not_or.mp hj
    cases h
    exact getV_setV_setV_advance_other s _ _ hf hx
  | ldVxK x =>
    rcases exec_ldVxK_cases x s with hk | ⟨b, hk⟩
    · cases hk.symm.trans h; rfl
    · cases hk.symm.trans h; exact getV_setV_advance_other s b hj
  | ldVxMemI x =>
    obtain ⟨_, rfl⟩ := exec_ldVxMemI_eq_next h
    have hx : ¬ j.val < x.val + 1 := fun hlt => hj (Nat.le_of_lt_succ hlt)
    exact (loadRegs_getV s (by omega) j).trans (if_neg hx)
  | drwVxVyN x y n =>
    obtain ⟨_, rfl⟩ := exec_drwVxVyN_eq_next h
    exact getV_drawn_other s x y n hj

/-! ### Stored bytes -/

/-- An address that is none of the run's `n` addresses lies below or above it. -/
theorem outside_run_of_ne_indexAddr {s : State} {a n : Nat} (h : ∀ k, k < n → a ≠ indexAddr s k) :
    a < s.i.toNat ∨ s.i.toNat + n ≤ a := by
  by_contra hin
  exact h (a - s.i.toNat) (by omega) (by rw [indexAddr]; omega)

/-- An address that the instruction does not store to keeps its byte. -/
theorem exec_readByte_of_not_storesTo {i : Instr} {s t : State} (h : exec i s = .next t) {a : Nat} (ha : ¬ storesTo i s a) :
    t.readByte a = s.readByte a := by
  cases i with
  | ldBVx x =>
    obtain ⟨_, rfl⟩ := exec_ldBVx_eq_next h
    exact s.readByte_writeBytes_outside (outside_run_of_ne_indexAddr fun k hk e => ha ⟨k, hk, e⟩)
  | ldMemIVx x =>
    obtain ⟨_, rfl⟩ := exec_ldMemIVx_eq_next h
    refine s.readByte_writeBytes_outside ?_
    rw [firstRegs_length s (by omega)]
    exact outside_run_of_ne_indexAddr fun k hk e => ha ⟨k, Nat.le_of_lt_succ hk, e⟩
  | _ => exact exec_sameExcept h .mem (by simp [writtenParts]) a

/-- Settles O43: registers and bytes apart, the writers of each by the registers or the run they write. -/
theorem onlyDestinationsChange : Obligations.OnlyDestinationsChange := fun _ _ _ h =>
  ⟨fun _ hj => exec_getV_of_not_writesReg h hj, fun _ ha => exec_readByte_of_not_storesTo h ha⟩

end Sys2Proof.Machine
end

section
/-! What a STEP and the other transactions change (00_scope.md R6, 60_exceptions.md R199 to R201), and what every run of them
keeps: the parameters, the invariant, the return address of a call. -/

namespace Sys2Proof.Machine

/-! ### Frames of the transactions -/

/-- A STEP that completes changes what its instruction may write, and counts. -/
theorem stepWith_sameExcept {rand : Byte} {s u : State} (h : stepWith rand s = .next u) :
    ∃ i, SameExcept (writtenParts i ++ [.cycleCount, .draws]) s u := by
  obtain ⟨-, i, t, -, ht, rfl⟩ := stepWith_eq_next h
  exact ⟨i, (execWith_sameExcept ht).append (sameExcept_countCycle t)⟩

theorem sameExcept_loadFont (s : State) : SameExcept [.mem] s (loadFont s) := sameExcept_writeBytes s 0 _

theorem sameExcept_loadImage (bytes : List Byte) (len : Fin 3585) (s : State) :
    SameExcept [.mem, .pc, .programSize, .cycleCount] s (loadImage bytes len s) :=
  ((sameExcept_writeBytes s _ bytes).append (sameExcept_setPc _ _)).append (sameExcept_setLoaded _ len)

theorem sameExcept_load (bytes : List Byte) (s : State) :
    SameExcept [.mem, .pc, .programSize, .cycleCount] s (transact (.load bytes) s).1 := by
  have hfont : SameExcept [.mem, .pc, .programSize, .cycleCount] s (loadFont s) := (sameExcept_loadFont s).mono (by simp)
  by_cases hlen : bytes.length ≤ 3584
  · rw [transact_load_fits s hlen]
    exact hfont.trans (sameExcept_loadImage bytes _ _)
  · rw [transact_load_tooLarge s hlen]
    exact hfont

/-- The items that the host's LOAD, TICK and KEY_WRITE may write. -/
def hostParts : List Part := [.mem, .pc, .programSize, .cycleCount, .delay, .sound, .key]

/-- A transaction other than CONSTRUCT is a STEP that completes, or changes only what the host may write. -/
theorem transact_cases {x : Transaction} {s : State} (hx : ∀ m f, x ≠ .construct m f) :
    (∃ rand, stepWith rand s = .next (transact x s).1) ∨ SameExcept hostParts s (transact x s).1 := by
  cases x with
  | construct m f => exact absurd rfl (hx m f)
  | load bytes => exact .inr ((sameExcept_load bytes s).mono (by simp [hostParts]))
  | step rand =>
    rcases transact_step_state rand s with ⟨t, ht, he⟩ | he
    · exact .inl ⟨rand, he ▸ ht⟩
    · exact .inr (he.symm ▸ .refl _ s)
  | tick => exact .inr ((sameExcept_tick s).mono (by simp [hostParts]))
  | keyWrite k b => exact .inr ((sameExcept_setKey s k b).mono (by simp [hostParts]))
  | observe => exact .inr (.refl _ s)

theorem params_notMem_writtenParts (i : Instr) : Part.params ∉ writtenParts i := by
  cases i <;> simp [writtenParts]

/-- Settles O45: the parameters stand in no frame, neither an instruction's nor the host's. -/
theorem parametersAreFixed : Obligations.ParametersAreFixed := by
  intro x s hx
  rcases transact_cases (s := s) hx with ⟨rand, h⟩ | h
  · obtain ⟨i, hi⟩ := stepWith_sameExcept h
    exact hi .params (by simp [params_notMem_writtenParts])
  · exact h .params (by simp [hostParts])

/-! ### The call stack below the live entries -/

theorem stack_notMem_writtenParts {i : Instr} (h : ∀ nnn, i ≠ .callNnn nnn) : Part.stack ∉ writtenParts i := by
  cases i <;> simp_all [writtenParts]

/-- The live entries of the stack outlive every instruction: only a call writes an entry, the one above them. -/
theorem execWith_stack_live {rand : Byte} {i : Instr} {s t : State} (h : execWith rand i s = .next t) {j : Fin 16}
    (hj : j.val < s.sp.val) : t.stack[j] = s.stack[j] := by
  by_cases hc : ∃ nnn, i = .callNnn nnn
  · obtain ⟨nnn, rfl⟩ := hc
    obtain ⟨hr, rfl⟩ := exec_callNnn_eq_next h
    exact Vector.getElem_set_ne hr j.isLt hj.ne'
  · have hs : t.stack = s.stack :=
      execWith_sameExcept h .stack (stack_notMem_writtenParts fun nnn e => hc ⟨nnn, e⟩)
    rw [hs]

theorem transact_stack_live {x : Transaction} {s : State} (hx : ∀ m f, x ≠ .construct m f) {j : Fin 16}
    (hj : j.val < s.sp.val) : (transact x s).1.stack[j] = s.stack[j] := by
  rcases transact_cases (s := s) hx with ⟨rand, h⟩ | h
  · obtain ⟨-, i, t, -, ht, hu⟩ := stepWith_eq_next h
    rw [hu, State.countCycle_stack]
    exact execWith_stack_live ht hj
  · rw [show (transact x s).1.stack = s.stack from h .stack (by simp [hostParts])]

theorem RunAbove.le_sp {d : Nat} {s t : State} (h : RunAbove d s t) : d ≤ t.sp.val := by
  cases h with
  | here hd => exact hd
  | more _ _ _ hd => exact hd

/-- A run whose depth stays at or above `d` keeps the entries below `d`. -/
theorem RunAbove.stack_below {d : Nat} {s t : State} (h : RunAbove d s t) {j : Fin 16} (hj : j.val < d) :
    t.stack[j] = s.stack[j] := by
  induction h with
  | here => rfl
  | more h x hx _ ih => exact (transact_stack_live hx (hj.trans_le h.le_sp)).trans ih

/-- Settles O18: the run keeps the entry that the call pushed and those below it, and the return pops that entry. -/
theorem subroutineRoundTrip : Obligations.SubroutineRoundTrip := by
  intro s t u nnn hcall hrun hsp
  obtain ⟨hr, rfl⟩ := exec_callNnn_eq_next hcall
  have hdepth : u.sp.val = s.sp.val + 1 := congrArg Fin.val hsp
  have hkept (j : Fin 16) (hj : j.val < s.sp.val + 1) :
      u.stack[j] = (s.stack.set s.sp.val (returnAddress s) hr)[j] := hrun.stack_below hj
  have htop : u.stack[s.sp.val] = returnAddress s :=
    (hkept ⟨s.sp.val, hr⟩ (Nat.lt_succ_self _)).trans (Vector.getElem_set_self hr)
  refine ⟨_, exec_ret_entry (by omega), ?_, ?_, fun j hj => ?_⟩
  · simpa [hdepth, returnAddress] using htop
  · exact Fin.ext (by simp [hdepth])
  · exact (hkept j (by omega)).trans (Vector.getElem_set_ne hr j.isLt hj.ne')

/-! ### The invariant -/

theorem State.writeBytes_pc (s : State) (base : Nat) (bs : List Byte) : (s.writeBytes base bs).pc = s.pc :=
  sameExcept_writeBytes s base bs .pc (by simp)

theorem loadRegs_pc (s : State) (n : Nat) : (loadRegs s n).pc = s.pc := sameExcept_loadRegs s n .pc (by simp)

theorem loadRegs_mem (s : State) (n : Nat) : (loadRegs s n).mem = s.mem := by
  obtain ⟨v, hv⟩ := loadRegs_setV s n
  rw [hv]

/-- An instruction leaves `mem` as it is, or with one run of bytes written. -/
theorem execWith_mem {rand : Byte} {i : Instr} {s t : State} (h : execWith rand i s = .next t) :
    t.mem = s.mem ∨ ∃ base bs, t.mem = (s.writeBytes base bs).mem := by
  cases i with
  | cls | jpNnn | seVxNn | sneVxNn | seVxVy | ldVxNn | addVxNn | ldVxVy | orVxVy | andVxVy | xorVxVy | addVxVy | subVxVy
  | shrVx | subnVxVy | shlVx | sneVxVy | ldINnn | jpV0Nnn | rndVxNn | ldVxDt | ldDtVx | ldStVx | addIVx | ldFVx =>
    cases h; exact .inl rfl
  | ret => obtain ⟨_, rfl⟩ := exec_ret_eq_next h; exact .inl rfl
  | callNnn => obtain ⟨_, rfl⟩ := exec_callNnn_eq_next h; exact .inl rfl
  | skpVx x => obtain ⟨_, rfl⟩ := exec_skpVx_eq_next h; exact .inl rfl
  | sknpVx x => obtain ⟨_, rfl⟩ := exec_sknpVx_eq_next h; exact .inl rfl
  | ldVxK x =>
    rcases exec_ldVxK_cases x s with hx | ⟨_, hx⟩
    · cases hx.symm.trans h; exact .inl rfl
    · cases hx.symm.trans h; exact .inl rfl
  | drwVxVyN x y n =>
    obtain ⟨_, rfl⟩ := exec_drwVxVyN_eq_next h; exact .inl rfl
  | ldVxMemI x =>
    obtain ⟨_, rfl⟩ := exec_ldVxMemI_eq_next h; exact .inl (loadRegs_mem s _)
  | ldBVx x => obtain ⟨_, rfl⟩ := exec_ldBVx_eq_next h; exact .inr ⟨_, _, rfl⟩
  | ldMemIVx x => obtain ⟨_, rfl⟩ := exec_ldMemIVx_eq_next h; exact .inr ⟨_, _, rfl⟩

/-- Every instruction keeps the canonical form of memory. -/
theorem execWith_memory_wf {rand : Byte} {i : Instr} {s t : State} (hs : s.mem.wf s.font = true)
    (h : execWith rand i s = .next t) : t.mem.wf t.font = true := by
  have hfont : t.font = s.font := (execWith_sameExcept h .params (params_notMem_writtenParts i)).2
  rw [hfont]
  rcases execWith_mem h with hm | ⟨base, bs, hm⟩
  · rwa [hm]
  · rw [hm]; exact s.writeBytes_wf base bs hs

/-- A call pushes `pc + 2`; no other instruction writes an entry. -/
theorem execWith_stack_le {rand : Byte} {i : Instr} {s t : State} (hs : ∀ j : Fin 16, (s.stack[j]).toNat ≤ 4096)
    (hpc : s.pc.toNat ≤ 4094) (h : execWith rand i s = .next t) (j : Fin 16) : (t.stack[j]).toNat ≤ 4096 := by
  by_cases hc : ∃ nnn, i = .callNnn nnn
  · obtain ⟨nnn, rfl⟩ := hc
    obtain ⟨hr, rfl⟩ := exec_callNnn_eq_next h
    by_cases hj : s.sp.val = j.val
    · have htop : (s.stack.set s.sp.val (returnAddress s) hr)[j] = returnAddress s := by simp [hj]
      rw [State.setPc_stack, State.setStack_stack, htop, returnAddress, BitVec.toNat_add]
      have : (2 : Word).toNat = 2 := rfl
      omega
    · exact (congrArg BitVec.toNat (Vector.getElem_set_ne hr j.isLt hj)).trans_le (hs j)
  · have ht : t.stack = s.stack :=
      execWith_sameExcept h .stack (stack_notMem_writtenParts fun nnn e => hc ⟨nnn, e⟩)
    rw [ht]
    exact hs j

/-- A `pc` that moves by `d` from where a fetch is possible. -/
theorem pc_add_le {s : State} (hpc : s.pc.toNat ≤ 4094) {d : Word} (hd : d.toNat ≤ 4) : (s.pc + d).toNat ≤ 4350 := by
  rw [BitVec.toNat_add]
  omega

theorem skip_distance_le (b : Bool) : (if b then (4 : Word) else 2).toNat ≤ 4 := by
  cases b <;> decide

/-- Where each instruction leaves `pc`: in place or past a skip, at an address of 12 bits, at V0 above one, or at a stack
entry (R26). -/
theorem execWith_pc_le {rand : Byte} {i : Instr} {s t : State} (hs : s.Inv) (hpc : s.pc.toNat ≤ 4094)
    (hwf : i.wellFormed = true) (h : execWith rand i s = .next t) : t.pc.toNat ≤ 4350 := by
  have hnext : (s.pc + 2).toNat ≤ 4350 := pc_add_le hpc (by decide)
  cases i with
  | cls | ldVxNn | addVxNn | ldVxVy | orVxVy | andVxVy | xorVxVy | addVxVy | subVxVy | shrVx | subnVxVy | shlVx | ldINnn
  | rndVxNn | ldVxDt | ldDtVx | ldStVx | addIVx | ldFVx => cases h; exact hnext
  | seVxNn | sneVxNn | seVxVy | sneVxVy => cases h; exact pc_add_le hpc (skip_distance_le _)
  | skpVx x =>
    obtain ⟨_, rfl⟩ := exec_skpVx_eq_next h
    exact pc_add_le hpc (skip_distance_le _)
  | sknpVx x =>
    obtain ⟨_, rfl⟩ := exec_sknpVx_eq_next h
    exact pc_add_le hpc (skip_distance_le _)
  | jpNnn nnn =>
    have hn : nnn.toNat < 4096 := of_decide_eq_true hwf
    cases h
    exact (by omega : nnn.toNat ≤ 4350)
  | callNnn nnn =>
    have hn : nnn.toNat < 4096 := of_decide_eq_true hwf
    obtain ⟨_, rfl⟩ := exec_callNnn_eq_next h
    exact (by omega : nnn.toNat ≤ 4350)
  | jpV0Nnn nnn =>
    have hn : nnn.toNat < 4096 := of_decide_eq_true hwf
    have hv := (s.getV V0).isLt
    cases h
    exact (jumpTarget_toNat (s.getV V0) hn).trans_le (by omega)
  | ret =>
    obtain ⟨hp, rfl⟩ := exec_ret_eq_next h
    exact (hs.stackEntries ⟨s.sp.val - 1, by omega⟩).trans (by omega)
  | ldVxK x =>
    rcases exec_ldVxK_cases x s with hx | ⟨_, hx⟩
    · cases hx.symm.trans h; exact hs.pcBound
    · cases hx.symm.trans h; exact hnext
  | drwVxVyN x y n => obtain ⟨_, rfl⟩ := exec_drwVxVyN_eq_next h; exact hnext
  | ldBVx x =>
    obtain ⟨_, rfl⟩ := exec_ldBVx_eq_next h
    rwa [State.advance_eq, State.setPc_pc, State.writeBytes_pc]
  | ldMemIVx x =>
    obtain ⟨_, rfl⟩ := exec_ldMemIVx_eq_next h
    rwa [State.advance_eq, State.setPc_pc, State.writeBytes_pc]
  | ldVxMemI x =>
    obtain ⟨_, rfl⟩ := exec_ldVxMemI_eq_next h
    rwa [State.advance_eq, State.setPc_pc, loadRegs_pc]

theorem execWith_inv {rand : Byte} {i : Instr} {s t : State} (hs : s.Inv) (hpc : s.pc.toNat ≤ 4094)
    (hwf : i.wellFormed = true) (h : execWith rand i s = .next t) : t.Inv :=
  ⟨execWith_memory_wf hs.memory h, execWith_stack_le hs.stackEntries hpc h, execWith_pc_le hs hpc hwf h⟩

/-- A STEP fetches inside the memory and runs a well-formed instruction, which keeps the invariant. -/
theorem stepWith_inv {rand : Byte} {s u : State} (hs : s.Inv) (h : stepWith rand s = .next u) : u.Inv := by
  obtain ⟨hpc, i, t, hi, ht, rfl⟩ := stepWith_eq_next h
  obtain ⟨hmem, hstack, hpc'⟩ := execWith_inv hs hpc (decodeWord_eq_some_iff.mp hi).1 ht
  exact ⟨hmem, hstack, hpc'⟩

/-- Settles O51: `step` is STEP with the free `rand` of the state. -/
theorem stepKeepsTheInvariant : Obligations.StepKeepsTheInvariant := fun s _ hs h =>
  stepWith_inv hs ((stepWith_randomByte s).trans h)

theorem construct_inv (m : FX0AMode) (f : Vector Byte 80) : (construct m f).Inv where
  memory := rfl
  stackEntries j := by simp [construct, State.reset]
  pcBound := show (0x200 : Word).toNat ≤ 4350 by decide

/-- Settles O50: the state after reset is what CONSTRUCT gives for the default parameters. -/
theorem resetMeetsTheInvariant : Obligations.ResetMeetsTheInvariant := construct_inv .original defaultFont

/-- A run of bytes written keeps the invariant. -/
theorem State.writeBytes_inv {s : State} (hs : s.Inv) (base : Nat) (bs : List Byte) : (s.writeBytes base bs).Inv := by
  have hwf := s.writeBytes_wf base bs hs.memory
  obtain ⟨m, hm⟩ := s.writeBytes_setMem base bs
  rw [hm] at hwf ⊢
  exact ⟨hwf, hs.stackEntries, hs.pcBound⟩

theorem loadImage_inv {s : State} (hs : s.Inv) (bytes : List Byte) (len : Fin 3585) : (loadImage bytes len s).Inv := by
  obtain ⟨hmem, hstack, -⟩ := State.writeBytes_inv hs Config.programBase bytes
  exact ⟨hmem, hstack, show (0x200 : Word).toNat ≤ 4350 by decide⟩

theorem transact_load_inv {s : State} (hs : s.Inv) (bytes : List Byte) : (transact (.load bytes) s).1.Inv := by
  have hfont : (loadFont s).Inv := State.writeBytes_inv hs 0 _
  by_cases hlen : bytes.length ≤ 3584
  · rw [transact_load_fits s hlen]; exact loadImage_inv hfont _ _
  · rw [transact_load_tooLarge s hlen]; exact hfont

/-- Settles O52: CONSTRUCT establishes the invariant, LOAD and STEP keep it, the others change none of its items. -/
theorem transactionsKeepTheInvariant : Obligations.TransactionsKeepTheInvariant := by
  intro x s hs
  cases x with
  | construct m f => exact construct_inv m f
  | load bytes => exact transact_load_inv hs bytes
  | step rand =>
    rcases transact_step_state rand s with ⟨t, ht, he⟩ | he
    · rw [he]; exact stepWith_inv hs ht
    · rwa [he]
  | tick | keyWrite => exact ⟨hs.memory, hs.stackEntries, hs.pcBound⟩
  | observe => exact hs

/-! ### A fault stays -/

/-- The error of a STEP, if it raises one: fetch bounds, then decode, then the instruction's own condition (R98, R99). -/
def stepFault (s : State) : Option Fault :=
  if 4094 < s.pc.toNat then some (.addressOutOfBounds (max s.pc.toNat 4096) s.pc)
  else
    match decodeWord (fetchWord s) with
    | none => some (.unknownOpcode (fetchWord s) s.pc)
    | some i => executionFault i s

theorem complete_eq_fault_iff {r : Result} {f : Fault} : complete r = .fault f ↔ r = .fault f := by
  cases r <;> simp

/-- What a STEP raises does not depend on `rand`. -/
theorem stepWith_eq_fault_iff {rand : Byte} {s : State} {f : Fault} : stepWith rand s = .fault f ↔ stepFault s = some f := by
  unfold stepFault
  split
  case isTrue hpc => rw [stepWith, withInstr_outside hpc]; simp
  case isFalse hpc =>
    cases hd : decodeWord (fetchWord s) with
    | none => rw [stepWith, withInstr_unknown (by omega) hd]; simp
    | some i => rw [stepWith_known (by omega) hd, complete_eq_fault_iff, execWith_eq_fault_iff]

/-- A run of transactions that touches the timers and the keys alone cannot change what the next STEP raises. -/
theorem stepFault_eq_of_sameExcept {s u : State} (h : SameExcept [.delay, .sound, .key] s u) : stepFault u = stepFault s := by
  have hpc : u.pc = s.pc := h .pc (by simp)
  have hsp : u.sp = s.sp := h .sp (by simp)
  have hi : u.i = s.i := h .i (by simp)
  have hv : ∀ j, u.getV j = s.getV j := h .v (by simp)
  have hmem : ∀ a, u.readByte a = s.readByte a := h .mem (by simp)
  have hfetch : fetchWord u = fetchWord s := by simp only [fetchWord, hpc, hmem]
  have hexec (i : Instr) : executionFault i u = executionFault i s := by simp only [executionFault, hpc, hsp, hi, hv]
  simp only [stepFault, hpc, hfetch, hexec]

/-- At a state whose STEP raises, the transactions short of a reload change the timers and the keys alone. -/
theorem transact_sameExcept_of_fault {s : State} {f : Fault} (hf : stepFault s = some f) {x : Transaction}
    (hx : x.keepsProgram = true) : SameExcept [.delay, .sound, .key] s (transact x s).1 := by
  cases x with
  | construct | load => cases hx
  | step rand =>
    rw [transact_step_fault (stepWith_eq_fault_iff.mpr hf)]
    exact .refl _ s
  | tick => exact (sameExcept_tick s).mono (by simp)
  | keyWrite k b => exact (sameExcept_setKey s k b).mono (by simp)
  | observe => exact .refl _ s

theorem transactAll_sameExcept_of_fault (xs : List Transaction) {s : State} {f : Fault} (hf : stepFault s = some f)
    (hxs : ∀ x ∈ xs, x.keepsProgram = true) : SameExcept [.delay, .sound, .key] s (transactAll xs s) := by
  induction xs generalizing s with
  | nil => exact .refl _ s
  | cons x xs ih =>
    obtain ⟨hx, hxs⟩ := List.forall_mem_cons.mp hxs
    have h := transact_sameExcept_of_fault hf hx
    exact h.trans (ih ((stepFault_eq_of_sameExcept h).trans hf) hxs)

/-- Settles O53: at a fault only timers and keys change, and what a STEP raises reads neither. -/
theorem faultsRepeatUntilReloaded : Obligations.FaultsRepeatUntilReloaded := by
  intro s rand f hf xs hxs
  have hs : stepFault s = some f := stepWith_eq_fault_iff.mp hf
  have h := transactAll_sameExcept_of_fault xs hs hxs
  have hend : stepFault (transactAll xs s) = some f := (stepFault_eq_of_sameExcept h).trans hs
  exact ⟨h, fun r => transact_step_fault (stepWith_eq_fault_iff.mpr hend)⟩

end Sys2Proof.Machine
end

section
/-! What no program can read (10_state.md R27, R37): two states that agree on the rest are one state with its hidden items
replaced, and no instruction brings a hidden item into view. -/

namespace Sys2Proof.Machine

/-! ### The canonical form of memory is determined by its bytes -/

section
variable {font : Vector Byte 80}

/-- The first cell holds what its address does not read as elsewhere: not in the reset contents, nor in a memory that starts
above it. -/
theorem Memory.read_head_ne {lo k : Nat} {b : Byte} {m m' : Memory} (hm : Memory.wfFrom font lo ((k, b) :: m) = true)
    (hm' : Memory.wfFrom font (k + 1) m' = true) : Memory.read font ((k, b) :: m) k ≠ Memory.read font m' k := by
  obtain ⟨-, -, hb, -⟩ := Memory.wfFrom_cons.mp hm
  rwa [Memory.read_below hm' (Nat.lt_succ_self k), Memory.read, if_pos rfl]

/-- Memories in canonical form that read alike are equal lists. -/
theorem Memory.eq_of_read_eq {lo : Nat} {m m' : Memory} (hm : Memory.wfFrom font lo m = true)
    (hm' : Memory.wfFrom font lo m' = true) (h : ∀ a, Memory.read font m a = Memory.read font m' a) : m = m' := by
  induction m generalizing lo m' with
  | nil =>
    cases m' with
    | nil => rfl
    | cons d m' => exact absurd (h d.1).symm (Memory.read_head_ne hm' rfl)
  | cons c m ih =>
    obtain ⟨k, b⟩ := c
    cases m' with
    | nil => exact absurd (h k) (Memory.read_head_ne hm rfl)
    | cons d m' =>
      obtain ⟨k', b'⟩ := d
      obtain ⟨-, hk, hb, htail⟩ := Memory.wfFrom_cons.mp hm
      obtain ⟨-, hk', hb', htail'⟩ := Memory.wfFrom_cons.mp hm'
      rcases Nat.lt_trichotomy k k' with hlt | rfl | hlt
      · exact absurd (h k) (Memory.read_head_ne hm (Memory.wfFrom_cons.mpr ⟨hlt, hk', hb', htail'⟩))
      · have hbyte : b = b' := by simpa [Memory.read] using h k
        have hrest (a : Nat) : Memory.read font m a = Memory.read font m' a := by
          by_cases ha : k = a
          · rw [Memory.read_below htail (by omega), Memory.read_below htail' (by omega)]
          · simpa [Memory.read, ha] using h a
        rw [hbyte, ih htail htail' hrest]
      · exact absurd (h k').symm (Memory.read_head_ne hm' (Memory.wfFrom_cons.mpr ⟨hlt, hk, hb, htail⟩))

end

/-! ### Replacing the hidden items -/

/-- `s` with other values of `stack`, `sound`, `cycle_count` and `program_size`. -/
def State.withHidden (s : State) (k : Vector Word 16) (o : Byte) (c : BitVec 64) (n : Fin 3585) : State :=
  { s with stack := k, sound := o, cycleCount := c, programSize := n }

section
variable {k : Vector Word 16} {o : Byte} {c : BitVec 64} {n : Fin 3585}

/-- The entries of `k` that are live in `s` are those of `s`. -/
def LiveAgree (s : State) (k : Vector Word 16) : Prop := ∀ j : Fin 16, j.val < s.sp.val → k[j] = s.stack[j]

/-- Replacing the hidden items is not seen, if the live entries of the stack stay. -/
theorem sameForPrograms_withHidden {s : State} (h : LiveAgree s k) : SameForPrograms s (s.withHidden k o c n) where
  v _ := rfl
  i := rfl
  pc := rfl
  sp := rfl
  live := h
  delay := rfl
  fb _ _ := rfl
  key _ := rfl
  mem _ := rfl
  mode := rfl
  font := rfl
  draws := rfl

theorem Framebuffer.ext_pixel {f g : Framebuffer} (h : ∀ px py, f.pixel px py = g.pixel px py) : f = g :=
  Vector.ext fun y hy => Vector.ext fun x hx => h ⟨x, hx⟩ ⟨y, hy⟩

/-- States in canonical form that are the same to programs differ by their hidden items alone. -/
theorem eq_withHidden_of_sameForPrograms {s t : State} (hs : s.mem.wf s.font = true) (ht : t.mem.wf t.font = true)
    (h : SameForPrograms s t) : t = s.withHidden t.stack t.sound t.cycleCount t.programSize := by
  obtain ⟨hv, hi, hpc, hsp, -, hdelay, hfb, hkey, hmem, hmode, hfont, hdraws⟩ := h
  have hv : t.v = s.v := Vector.ext fun j hj => hv ⟨j, hj⟩
  have hkey : t.key = s.key := Vector.ext fun j hj => hkey ⟨j, hj⟩
  have hfb : t.fb = s.fb := Framebuffer.ext_pixel hfb
  have hmem : t.mem = s.mem := by
    rw [hfont] at ht
    refine Memory.eq_of_read_eq ht hs fun a => ?_
    have ha := hmem a
    rwa [State.readByte, State.readByte, hfont] at ha
  cases s
  cases t
  simp_all [State.withHidden]

/-! ### The shared operations on a state with its hidden items replaced -/

theorem drawRows_withHidden (s : State) (x0 y0 rows : Nat) :
    drawRows (s.withHidden k o c n) x0 y0 rows = drawRows s x0 y0 rows := by
  induction rows with
  | zero => rfl
  | succ rows ih => rw [drawRows, ih]; rfl

theorem drawn_withHidden (s : State) (x y : Reg) (rows : Nat) :
    (s.withHidden k o c n).drawn x y rows = (s.drawn x y rows).withHidden k o c n := by
  simp only [State.drawn]
  rw [drawRows_withHidden]
  rfl

theorem writeBytes_withHidden (s : State) (base : Nat) (bs : List Byte) :
    (s.withHidden k o c n).writeBytes base bs = (s.writeBytes base bs).withHidden k o c n := by
  induction bs generalizing s base with
  | nil => rfl
  | cons b bs ih => exact ih (s.writeByte base b) (base + 1)

theorem loadRegs_withHidden (s : State) (regs : Nat) :
    loadRegs (s.withHidden k o c n) regs = (loadRegs s regs).withHidden k o c n := by
  induction regs with
  | zero => rfl
  | succ regs ih => rw [loadRegs, ih]; rfl

theorem resultSame_withRun {base m : Nat} {s u s' u' : State} (hpc : u.pc = s.pc) (h : SameForPrograms s' u') :
    ResultSameForPrograms (withRun base m s (.next s')) (withRun base m u (.next u')) := by
  by_cases hf : RunFits base m
  · rw [withRun_fits hf, withRun_fits hf]; exact h
  · rw [withRun_outside hf, withRun_outside hf, hpc]; rfl

theorem resultSame_withKey {x : Reg} {s u : State} {f g : Reg → State} (hpc : u.pc = s.pc) (hv : u.getV x = s.getV x)
    (h : ∀ j, SameForPrograms (f j) (g j)) :
    ResultSameForPrograms (withKey x s fun j => .next (f j)) (withKey x u fun j => .next (g j)) := by
  by_cases hx : (s.getV x).toNat < 16
  · rw [withKey_inside hx, withKey_inside (hv ▸ hx)]
    simp only [hv]
    exact h _
  · rw [withKey_outside hx, withKey_outside (hv ▸ hx), hpc, hv]; rfl

/-! ### Every instruction, and the STEP -/

theorem LiveAgree.of_same {s u : State} (h : LiveAgree s k) (hstack : u.stack = s.stack) (hsp : u.sp = s.sp) :
    LiveAgree u k := by
  intro j hj
  rw [hstack]
  exact h j (hsp ▸ hj)

/-- A pop leaves fewer entries live. -/
theorem LiveAgree.pop {s : State} (h : LiveAgree s k) (pc : Word) :
    LiveAgree ((s.setStack s.stack ⟨s.sp.val - 1, by omega⟩).setPc pc) k :=
  fun j hj => h j (Nat.lt_of_lt_of_le hj (Nat.sub_le _ _))

/-- A push stores the same entry above live entries that agree. -/
theorem LiveAgree.push {s : State} (h : LiveAgree s k) (hr : s.sp.val < 16) (w : Word) (pc : Word) :
    LiveAgree ((s.setStack (s.stack.set s.sp.val w) ⟨s.sp.val + 1, by omega⟩).setPc pc) (k.set s.sp.val w) := by
  intro j hj
  by_cases he : s.sp.val = j.val
  · simp [he]
  · exact (Vector.getElem_set_ne hr j.isLt he).trans
      ((h j (by have : j.val < s.sp.val + 1 := hj; omega)).trans (Vector.getElem_set_ne hr j.isLt he).symm)

/-- No instruction brings a hidden item into view. -/
theorem exec_withHidden (i : Instr) {s : State} (h : LiveAgree s k) :
    ResultSameForPrograms (exec i s) (exec i (s.withHidden k o c n)) := by
  cases i with
  | cls | jpNnn | seVxNn | sneVxNn | seVxVy | ldVxNn | addVxNn | ldVxVy | orVxVy | andVxVy | xorVxVy | addVxVy | subVxVy
  | shrVx | subnVxVy | shlVx | sneVxVy | ldINnn | jpV0Nnn | rndVxNn | ldVxDt | ldDtVx | ldStVx | addIVx | ldFVx =>
    exact sameForPrograms_withHidden h
  | ret =>
    by_cases hp : 0 < s.sp.val
    · have htop : k[s.sp.val - 1] = s.stack[s.sp.val - 1] := h ⟨s.sp.val - 1, by omega⟩ (Nat.sub_one_lt hp.ne')
      rw [exec_ret_entry hp, exec_ret_entry (s := s.withHidden k o c n) hp, ← htop]
      exact sameForPrograms_withHidden (h.pop _)
    · have he : s.sp.val = 0 := by omega
      rw [exec_ret_empty he, exec_ret_empty (s := s.withHidden k o c n) he]; rfl
  | callNnn nnn =>
    by_cases hr : s.sp.val < 16
    · rw [exec_callNnn_room nnn hr, exec_callNnn_room nnn (s := s.withHidden k o c n) hr]
      exact sameForPrograms_withHidden (h.push hr _ nnn)
    · have hf : s.sp.val = 16 := by omega
      rw [exec_callNnn_full nnn hf, exec_callNnn_full nnn (s := s.withHidden k o c n) hf]; rfl
  | skpVx x => rw [exec_skpVx, exec_skpVx]; exact resultSame_withKey rfl rfl fun _ => sameForPrograms_withHidden h
  | sknpVx x => rw [exec_sknpVx, exec_sknpVx]; exact resultSame_withKey rfl rfl fun _ => sameForPrograms_withHidden h
  | ldVxK x =>
    cases hk : leastPressed s with
    | none =>
      rw [exec_ldVxK_idle x hk, exec_ldVxK_idle x (s := s.withHidden k o c n) hk]
      exact sameForPrograms_withHidden h
    | some j =>
      rw [exec_ldVxK_pressed x hk, exec_ldVxK_pressed x (s := s.withHidden k o c n) hk]
      exact sameForPrograms_withHidden h
  | drwVxVyN x y rows =>
    rw [exec_drwVxVyN, exec_drwVxVyN, drawn_withHidden]
    exact resultSame_withRun rfl (sameForPrograms_withHidden h)
  | ldBVx x =>
    have hf := sameExcept_writeBytes_advance s s.i.toNat (bcdDigits (s.getV x))
    rw [exec_ldBVx, exec_ldBVx, writeBytes_withHidden]
    exact resultSame_withRun rfl
      (sameForPrograms_withHidden (h.of_same (hf .stack (by simp)) (hf .sp (by simp))))
  | ldMemIVx x =>
    have hf := sameExcept_writeBytes_advance s s.i.toNat (firstRegs s (x.val + 1))
    rw [exec_ldMemIVx, exec_ldMemIVx, writeBytes_withHidden]
    exact resultSame_withRun rfl
      (sameForPrograms_withHidden (h.of_same (hf .stack (by simp)) (hf .sp (by simp))))
  | ldVxMemI x =>
    have hf := sameExcept_loadRegs s (x.val + 1)
    rw [exec_ldVxMemI, exec_ldVxMemI, loadRegs_withHidden]
    exact resultSame_withRun rfl
      (sameForPrograms_withHidden (h.of_same (hf .stack (by simp)) (hf .sp (by simp))))

end

/-- Counting a STEP is the same in both: the count is hidden, and the index of free values agrees. -/
theorem SameForPrograms.countCycle {s t : State} (h : SameForPrograms s t) :
    SameForPrograms s.countCycle t.countCycle :=
  { h with draws := congrArg (· + 1) h.draws }

theorem ResultSameForPrograms.complete {r q : Result} (h : ResultSameForPrograms r q) :
    ResultSameForPrograms (complete r) (complete q) := by
  cases r with
  | next s =>
    cases q with
    | next t => exact SameForPrograms.countCycle h
    | fault | refused => exact h
  | fault | refused => cases q <;> exact h

/-- Both states fetch the same word, which runs alike in both. -/
theorem step_withHidden {k : Vector Word 16} {o : Byte} {c : BitVec 64} {n : Fin 3585} {s : State} (h : LiveAgree s k) :
    ResultSameForPrograms (step s) (step (s.withHidden k o c n)) := by
  by_cases hpc : s.pc.toNat ≤ 4094
  · cases hd : decodeWord (fetchWord s) with
    | none => rw [step_unknown hpc hd, step_unknown (s := s.withHidden k o c n) hpc hd]; rfl
    | some i =>
      rw [step, step, withInstr_known hpc hd, withInstr_known (s := s.withHidden k o c n) hpc hd]
      exact (exec_withHidden i h).complete
  · rw [step, step, withInstr_outside (by omega), withInstr_outside (s := s.withHidden k o c n) (Nat.lt_of_not_le hpc)]
    rfl

/-- Settles O54: the second state is the first with its hidden items replaced. -/
theorem hiddenStateIsInvisible : Obligations.HiddenStateIsInvisible := by
  intro s t hs ht h
  rw [eq_withHidden_of_sameForPrograms hs ht h]
  exact step_withHidden h.live

end Sys2Proof.Machine
end

section
/-! The STEP (30_encoding.md R98): the fetch bound, the count, where `rand` goes, and that it fetches what was stored last
(20_memory.md R72; log 22). Then the two ends of a run that go on for ever (70_reset_and_hazards.md R225). -/

namespace Sys2Proof.Machine

/-! ### Fetch, decode, execute, count -/

/-- Two bytes that decode to an instruction hold its word. -/
theorem decodeWord_of_decode_instr {hi lo : Byte} {i : Instr} {rest : List Byte} (h : decode [hi, lo] = .instr i rest) :
    decodeWord (assembleWord hi lo) = some i := by
  cases hd : decodeWord (assembleWord hi lo) with
  | none => simp [decode, hd] at h
  | some j => simp_all [decode]

theorem step_known {s : State} {i : Instr} (hpc : s.pc.toNat ≤ 4094) (hi : decodeWord (fetchWord s) = some i) :
    step s = complete (exec i s) :=
  withInstr_known hpc hi

/-- Settles O6: the STEP is the completion of the instruction's effect. -/
theorem stepRunsTheDecodedInstruction : Obligations.StepRunsTheDecodedInstruction := by
  intro s i hpc hdec
  have hstep := step_known hpc (decodeWord_of_decode_instr hdec)
  exact ⟨fun t ht => by rw [hstep, ht]; rfl, fun f hf => by rw [hstep, hf]; rfl⟩

theorem step_outside {s : State} (hpc : 4094 < s.pc.toNat) :
    step s = .fault (.addressOutOfBounds (max s.pc.toNat 4096) s.pc) :=
  withInstr_outside hpc

/-- Settles O8: the address raised is the lowest one outside the memory. -/
theorem fetchOutsideMemoryFaults : Obligations.FetchOutsideMemoryFaults := by
  intro s hpc
  rw [step_outside hpc]
  exact ⟨fun h => by rw [h]; rfl, fun h => by rw [Nat.max_eq_left h]⟩

/-- Only a STEP that completes returns `Ok`, with the count it left. -/
theorem transact_step_eq_stepped {rand : Byte} {s t : State} {c : BitVec 64}
    (h : transact (.step rand) s = (t, .stepped c)) : stepWith rand s = .next t ∧ c = t.cycleCount := by
  cases hs : stepWith rand s with
  | next u =>
    rw [transact_step_next hs] at h
    cases h
    exact ⟨rfl, rfl⟩
  | fault f =>
    rw [transact_step_fault hs] at h
    cases h
  | refused r => simp [transact, hs] at h

/-- Below 2^64 - 1 the count does not wrap. -/
theorem nextCycleCount_toNat {c : BitVec 64} (h : c.toNat < 2 ^ 64 - 1) (draw : Nat) :
    (nextCycleCount c draw).toNat = c.toNat + 1 := by
  have hne : c ≠ BitVec.allOnes 64 := by
    rintro rfl
    simp at h
  rw [nextCycleCount, if_neg hne, BitVec.toNat_add]
  exact Nat.mod_eq_of_lt (by simp; omega)

theorem cycleCount_notMem_writtenParts (i : Instr) : Part.cycleCount ∉ writtenParts i := by
  cases i <;> simp [writtenParts]

/-- Settles O9: no instruction writes the count, and a STEP that completes adds one to it. -/
theorem completedStepsCountOne : Obligations.CompletedStepsCountOne := by
  intro s t rand c h hc
  obtain ⟨hs, rfl⟩ := transact_step_eq_stepped h
  obtain ⟨-, i, u, -, hu, rfl⟩ := stepWith_eq_next hs
  have hkeep : u.cycleCount = s.cycleCount := execWith_sameExcept hu .cycleCount (cycleCount_notMem_writtenParts i)
  exact ⟨rfl, by rw [State.countCycle_cycleCount, hkeep, nextCycleCount_toNat hc]⟩

theorem execWith_of_ne_rndVxNn {i : Instr} (h : ∀ x nn, i ≠ .rndVxNn x nn) (rand : Byte) (s : State) :
    execWith rand i s = exec i s := by
  rcases execWith_cases rand i s with he | ⟨x, nn, hi, -⟩
  · exact he
  · exact absurd hi (h x nn)

/-- A STEP that fetches no CXNN is `step`, whatever its `rand`. -/
theorem stepWith_eq_step {s : State} (h : ∀ x nn, decodeWord (fetchWord s) ≠ some (.rndVxNn x nn)) (rand : Byte) :
    stepWith rand s = step s := by
  unfold stepWith step withInstr
  cases hd : decodeWord (fetchWord s) with
  | none => rfl
  | some i =>
    have hi : ∀ x nn, i ≠ .rndVxNn x nn := fun x nn e => h x nn (hd.trans (congrArg some e))
    simp only [execWith_of_ne_rndVxNn hi]

/-- Settles O10: both answers are those of `step`. -/
theorem randIsConsumedByRndAlone : Obligations.RandIsConsumedByRndAlone := fun _ r r' h =>
  (stepWith_eq_step h r).trans (stepWith_eq_step h r').symm

/-! ### A stored word is what the next STEP fetches -/

theorem wordBytes_length (op : Word) : (wordBytes op).length = 2 := rfl

/-- A fetch reads the two bytes a run of bytes put at `pc`. -/
theorem fetchWord_of_bytes {s : State} {hi lo : Byte} (h0 : s.readByte s.pc.toNat = hi)
    (h1 : s.readByte (s.pc.toNat + 1) = lo) : fetchWord s = assembleWord hi lo := by
  rw [fetchWord, h0, h1]

/-- A word written at `pc`, where a fetch is possible, is fetched. -/
theorem fetchWord_writeBytes_wordBytes {s : State} (hs : s.mem.wf s.font = true) (hpc : s.pc.toNat ≤ 4094) (op : Word) :
    fetchWord (s.writeBytes s.pc.toNat (wordBytes op)) = op := by
  have hbyte (k : Nat) (hk : k < (wordBytes op).length) :
      (s.writeBytes s.pc.toNat (wordBytes op)).readByte (s.pc.toNat + k) = (wordBytes op)[k] := by
    have : k < 2 := hk
    exact s.readByte_writeBytes_inside hs hk (by omega)
  refine (fetchWord_of_bytes ?_ ?_).trans (assembleWord_wordBytes op)
  · rw [State.writeBytes_pc]; exact hbyte 0 Nat.two_pos
  · rw [State.writeBytes_pc]; exact hbyte 1 Nat.one_lt_two

/-- Where `withFetchWord` places a word: at `pc`, or at the entry point with `pc` on it (log 22). -/
def State.atFetchable (s : State) : State :=
  if s.pc.toNat ≤ 4094 then s else s.setPc (BitVec.ofNat 16 Config.programBase)

theorem State.withFetchWord_eq (s : State) (op : Word) :
    s.withFetchWord 16 op.toNat = s.atFetchable.writeBytes s.atFetchable.pc.toNat (wordBytes op) := by
  have hop : BitVec.ofNat 16 (op.toNat % 2 ^ 16) = op := by
    rw [Nat.mod_eq_of_lt op.isLt, BitVec.ofNat_toNat, BitVec.setWidth_eq]
  rw [State.withFetchWord, hop]
  rfl

theorem State.atFetchable_pc_le (s : State) : s.atFetchable.pc.toNat ≤ 4094 := by
  unfold State.atFetchable
  split
  · assumption
  · simp

theorem State.atFetchable_of_le {s : State} (h : s.pc.toNat ≤ 4094) : s.atFetchable = s := if_pos h

theorem State.atFetchable_wf {s : State} (h : s.mem.wf s.font = true) :
    s.atFetchable.mem.wf s.atFetchable.font = true := by
  unfold State.atFetchable
  split <;> exact h

/-- Settles O11: the placed word is fetched, and placing it writes its two bytes alone. -/
theorem placedWordRunsNext : Obligations.PlacedWordRunsNext := by
  intro s op i hs hi
  rw [State.withFetchWord_eq]
  refine ⟨step_known ?_ ?_, fun hpc => ?_⟩
  · rw [State.writeBytes_pc]
    exact s.atFetchable_pc_le
  · rw [fetchWord_writeBytes_wordBytes (State.atFetchable_wf hs) s.atFetchable_pc_le]
    exact hi
  · rw [State.atFetchable_of_le hpc]
    refine ⟨sameExcept_writeBytes s _ _, fun a h0 h1 => s.readByte_writeBytes_outside ?_⟩
    rw [wordBytes_length]
    omega

/-- The byte that FX55 stores for the register `j` (R164). -/
theorem readByte_store_registers {s : State} (hs : s.mem.wf s.font = true) {x j : Reg} (hj : j.val ≤ x.val)
    (hf : RunFits s.i.toNat (x.val + 1)) :
    (s.writeBytes s.i.toNat (firstRegs s (x.val + 1))).readByte (indexAddr s j.val) = s.getV j := by
  have hlen : j.val < (firstRegs s (x.val + 1)).length := by rw [firstRegs_length s (by omega)]; omega
  rw [indexAddr, s.readByte_writeBytes_inside hs hlen (by omega), firstRegs_get s j.isLt]

/-- Settles O12: after the FX55 `pc` stands on `I`, where V0 and V1 were stored. -/
theorem storeIsSeenByTheNextFetch : Obligations.StoreIsSeenByTheNextFetch := by
  intro s t x hs hx hi h
  obtain ⟨hf, rfl⟩ := exec_ldMemIVx_eq_next h
  have hpc : (s.writeBytes s.i.toNat (firstRegs s (x.val + 1))).advance.pc = s.i := by
    rw [State.advance_eq, State.setPc_pc, State.writeBytes_pc, hi]
  rw [fetchWord_of_bytes (hi := s.getV 0) (lo := s.getV 1), assembleWord_toNat]
  · rw [hpc]; exact readByte_store_registers hs (j := 0) (Nat.zero_le _) hf
  · rw [hpc]; exact readByte_store_registers hs (j := 1) hx hf

/-! ### The ends of a run that go on -/

/-- The two ends of R225 at which the machine stands still. -/
def AtIdleEnd (s : State) : Prop := AtSelfJump s ∨ AtIdlePoll s

/-- The instruction at such an end has no effect, so that the STEP only counts. -/
theorem step_of_atIdleEnd {s : State} (h : AtIdleEnd s) : step s = .next s.countCycle := by
  rcases h with ⟨hpc, hd⟩ | ⟨hpc, ⟨x, hd⟩, hkeys⟩
  · rw [step_known hpc hd, exec_jpNnn]; rfl
  · rw [step_known hpc hd, exec_ldVxK_idle x (leastPressed_none.mpr hkeys)]; rfl

/-- Counting does not lead away from such an end. -/
theorem AtIdleEnd.countCycle {s : State} (h : AtIdleEnd s) : AtIdleEnd s.countCycle := h

theorem run_succ_of_step {s u : State} (k : Nat) (h : step s = .next u) :
    Host.Core.run Sys2Proof.core (k + 1) s = Host.Core.run Sys2Proof.core k u := by
  have h : Sys2Proof.core.step s = .next u := h
  simp only [Host.Core.run, h]

theorem safeRun_of_atIdleEnd (k : Nat) {s : State} (h : AtIdleEnd s) : SafeRun k s := by
  induction k generalizing s with
  | zero => exact ⟨s, rfl⟩
  | succ k ih =>
    obtain ⟨t, ht⟩ := ih h.countCycle
    exact ⟨t, (run_succ_of_step k (step_of_atIdleEnd h)).trans ht⟩

/-- Settles O55: each STEP there is a count, and leads to such an end again. -/
theorem idleEndsOfARunPersist : Obligations.IdleEndsOfARunPersist := fun s h =>
  ⟨⟨_, step_of_atIdleEnd h, sameExcept_countCycle s⟩, fun k => safeRun_of_atIdleEnd k h⟩

end Sys2Proof.Machine
end

section
/-! Calls and returns, the skips on registers and keys, the flag-writing arithmetic and the random byte (40_control_flow.md
R120, R122, 41_skips.md R133 to R135, 42_register_alu.md R146 to R153): each instruction's word and its completion. -/

namespace Sys2Proof.Machine

/-! ### Calls and returns -/

theorem wordDecodesTo_callNnn {nnn : Word} (h : nnn.toNat < 4096) : WordDecodesTo (0x2000 + nnn.toNat) (.callNnn nnn) :=
  decodeWord_encodeWord (i := .callNnn nnn) (decide_eq_true h)

theorem returnAddress_toNat (s : State) : (returnAddress s).toNat = (s.pc.toNat + 2) % 65536 := BitVec.toNat_add s.pc 2

/-- Settles O14: a call by the room it finds. -/
theorem callPushesTheReturnAddress : Obligations.CallPushesTheReturnAddress := by
  refine fun s nnn h => ⟨wordDecodesTo_callNnn h, fun hr => ?_, exec_callNnn_full nnn⟩
  refine ⟨_, exec_callNnn_room nnn hr, rfl, rfl, ?_, fun j hj => Vector.getElem_set_ne hr j.isLt hj.symm,
    exec_sameExcept (exec_callNnn_room nnn hr)⟩
  exact (congrArg BitVec.toNat (Vector.getElem_set_self hr)).trans (returnAddress_toNat s)

/-- An instruction without operands has one word. -/
theorem decodeWord_eq_some_iff_toNat {i : Instr} (hi : i.wellFormed = true) (op : Word) :
    decodeWord op = some i ↔ op.toNat = (encodeWord i).toNat := by
  rw [decodeWord_eq_some_iff, BitVec.toNat_inj]
  exact ⟨fun h => h.2.symm, fun h => ⟨hi, h.symm⟩⟩

/-- Settles O15: a return by the entry it finds. -/
theorem returnPopsIntoPc : Obligations.ReturnPopsIntoPc := fun _ =>
  ⟨decodeWord_eq_some_iff_toNat (i := .ret) rfl,
    fun hp => ⟨_, exec_ret_entry hp, rfl, rfl, exec_sameExcept (exec_ret_entry hp)⟩,
    exec_ret_empty⟩

/-- Settles O17: the two cases of a return exclude each other. -/
theorem returnFromNowhereUnderflows : Obligations.ReturnFromNowhereUnderflows := by
  refine fun s => ⟨⟨fun hf => ?_, exec_ret_empty⟩, fun h => ?_⟩
  · by_contra h
    cases (exec_ret_entry (Nat.pos_of_ne_zero h)).symm.trans hf
  · exact ⟨_, exec_ret_entry (Nat.pos_of_ne_zero h), Nat.sub_add_cancel (Nat.pos_of_ne_zero h)⟩

/-! ### Skips -/

theorem wordDecodesTo_sneVxVy (x y : Reg) : WordDecodesTo (0x9000 + x.val * 256 + y.val * 16) (.sneVxVy x y) :=
  decodeWord_encodeWord (i := .sneVxVy x y) rfl

theorem decodeWord_group9_unknown {n : Nat} (h0 : 0 < n) (hn : n < 16) (x y : Reg) :
    decodeWord (BitVec.ofNat 16 (0x9000 + x.val * 256 + y.val * 16 + n)) = none :=
  (decodeWord_encodeXYN_group9 hn x y).trans (if_neg h0.ne')

/-- Settles O20: the words by their low digit, and the completion as one `skipIf`. -/
theorem registerInequalitySkip : Obligations.RegisterInequalitySkip := fun s x y =>
  ⟨wordDecodesTo_sneVxVy x y, fun _ h0 hn => decodeWord_group9_unknown h0 hn x y,
    completesAsSkip_of_exec (exec_sneVxVy x y s) (decide_eq_true_iff.trans BitVec.toNat_inj.not.symm)⟩

/-- A row of group E from the function byte `f` that selects it: the word EXff decodes to the row's instruction on X. -/
theorem wordDecodesTo_groupE {f : Nat} (hf : f < 256) {row : Reg → Instr}
    (hrow : ∀ {op : Word}, op.toNat % 256 = f → decodeGroupE op = some (row (opX op))) (x : Reg) :
    WordDecodesTo (0xE000 + f + x.val * 256) (row x) := by
  have hw : BitVec.ofNat 16 (0xE000 + f + x.val * 256) = encodeXF 0xE x f := congrArg (BitVec.ofNat 16) (by omega)
  rw [WordDecodesTo, hw, decodeWord_encodeXF_groupE hf hrow]

theorem exec_skpVx_key {s : State} {x k : Reg} (h : (s.getV x).toNat = k.val) :
    exec (.skpVx x) s = .next (s.skipIf (s.getKey k)) :=
  (exec_skpVx x s).trans (withKey_of_toNat _ h)

theorem exec_sknpVx_key {s : State} {x k : Reg} (h : (s.getV x).toNat = k.val) :
    exec (.sknpVx x) s = .next (s.skipIf (!s.getKey k)) :=
  (exec_sknpVx x s).trans (withKey_of_toNat _ h)

/-- Settles O21: the key skips as `skipIf` on the key or its negation, with the check of the key's index before. -/
theorem keySkips : Obligations.KeySkips := fun s x =>
  ⟨wordDecodesTo_groupE (f := 0x9E) (by omega) decodeGroupE_of_mod_skpVx x,
    wordDecodesTo_groupE (f := 0xA1) (by omega) decodeGroupE_of_mod_sknpVx x,
    fun k hk => ⟨completesAsSkip_of_exec (exec_skpVx_key hk) Iff.rfl,
      completesAsSkip_of_exec (exec_sknpVx_key hk) (iff_of_eq (Bool.not_eq_true' _))⟩,
    fun h => ⟨(exec_skpVx x s).trans (withKey_outside (by omega)), (exec_sknpVx x s).trans (withKey_outside (by omega))⟩⟩

/-! ### Flags -/

/-- `V[X]` and then the flag: with `X = 15` the flag is what stays. -/
theorem completesWritingVAndFlag_of_flag_last {i : Instr} {s : State} {x : Reg} {b f : Byte} {p q : Nat → Prop}
    (h : exec i s = .next ((s.setV x b).setV VF f).advance) (hp : x ≠ VF → p b.toNat) (hpf : x = VF → p f.toNat)
    (hq : q f.toNat) : CompletesWritingVAndFlag i s x p q := by
  refine ⟨_, h, ?_, ?_, fun j hx hf => getV_setV_setV_advance_other s b f hx hf,
    pcAdvances_advance ((s.setV x b).setV VF f), sameExcept_setV_setV_advance s x VF b f⟩
  · by_cases hx : x = VF
    · subst hx; simpa using hpf rfl
    · simpa [hx] using hp hx
  · simpa using hq

/-- The flag and then `V[X]`: with `X = 15` the value of `V[X]` is what stays. -/
theorem completesWritingVAndFlag_of_flag_first {i : Instr} {s : State} {x : Reg} {b f : Byte} {p q : Nat → Prop}
    (h : exec i s = .next ((s.setV VF f).setV x b).advance) (hp : p b.toNat) (hq : x ≠ VF → q f.toNat)
    (hqb : x = VF → q b.toNat) : CompletesWritingVAndFlag i s x p q := by
  refine ⟨_, h, by simpa using hp, ?_, fun j hx hf => getV_setV_setV_advance_other s f b hf hx,
    pcAdvances_advance ((s.setV VF f).setV x b), sameExcept_setV_setV_advance s VF x f b⟩
  by_cases hx : x = VF
  · subst hx; simpa using hqb rfl
  · simpa [Ne.symm hx] using hq hx

/-- Settles O24: with `X = 15` the carry is the later write and stands. -/
theorem addWritesSumThenCarry : Obligations.AddWritesSumThenCarry := fun s x y =>
  ⟨wordDecodesTo_group8 (n := 4) (by omega) decodeGroup8_of_opN_addVxVy x y,
    completesWritingVAndFlag_of_flag_last (exec_addVxVy x y s) (fun _ _ => BitVec.toNat_add _ _)
      (fun hx hne => absurd hx hne) (carryFlag_toNat _ _)⟩

/-- The number in register `z` once `f` stands in VF. -/
def valueAfterFlag (s : State) (f : Nat) (z : Reg) : Nat := if z = VF then f else (s.getV z).toNat

theorem getV_setV_VF_toNat (s : State) (f : Byte) (z : Reg) : ((s.setV VF f).getV z).toNat = valueAfterFlag s f.toNat z := by
  rw [State.getV_setV, valueAfterFlag]
  split <;> rfl

section
variable {i : Instr} {s : State} {x m d : Reg} {f : Nat}

/-- 8XY5 and 8XY7: `x` receives `V[m] - V[d]` after the flag of the values before was put in VF. -/
def AnswersDifference (i : Instr) (s : State) (x m d : Reg) : Prop :=
  exec i s =
    let s₁ := s.setV VF (noBorrowFlag (s.getV m) (s.getV d))
    .next (s₁.setV x (s₁.getV m - s₁.getV d)).advance

theorem difference_toNat (s : State) (m d : Reg) (c : Byte) :
    ((s.setV VF c).getV m - (s.setV VF c).getV d).toNat =
      (valueAfterFlag s c.toNat m + 256 - valueAfterFlag s c.toNat d) % 256 := by
  rw [byte_sub_toNat, getV_setV_VF_toNat, getV_setV_VF_toNat]

/-- The flag stands where the difference goes elsewhere. -/
theorem completesWritingVAndFlag_difference (h : AnswersDifference i s x m d)
    (hf : f = if (s.getV d).toNat < (s.getV m).toNat then 1 else 0) (hx : x ≠ VF) :
    CompletesWritingVAndFlag i s x (fun r => r = (valueAfterFlag s f m + 256 - valueAfterFlag s f d) % 256)
      (fun q => q = f) := by
  obtain rfl : (noBorrowFlag (s.getV m) (s.getV d)).toNat = f := (noBorrowFlag_toNat _ _).trans hf.symm
  exact completesWritingVAndFlag_of_flag_first h (difference_toNat s m d _) (fun _ => rfl) fun e => absurd e hx

/-- A difference in VF replaces the flag it was computed with. -/
theorem completesWritingVAndFlag_difference_VF (h : AnswersDifference i s x m d)
    (hf : f = if (s.getV d).toNat < (s.getV m).toNat then 1 else 0) :
    CompletesWritingVAndFlag i s x (fun r => r = (valueAfterFlag s f m + 256 - valueAfterFlag s f d) % 256)
      (fun _ => True) := by
  obtain rfl : (noBorrowFlag (s.getV m) (s.getV d)).toNat = f := (noBorrowFlag_toNat _ _).trans hf.symm
  exact completesWritingVAndFlag_of_flag_first h (difference_toNat s m d _) (fun _ => trivial) fun _ => trivial

end

/-- Settles O25: the four cases are one difference of the registers after the flag write. -/
theorem subtractWritesFlagThenDifference : Obligations.SubtractWritesFlagThenDifference := by
  refine fun s x y => ⟨wordDecodesTo_group8 (n := 5) (by omega) decodeGroup8_of_opN_subVxVy x y, fun f hf => ?_⟩
  have hflag := completesWritingVAndFlag_difference (exec_subVxVy x y s) hf
  have hVF := completesWritingVAndFlag_difference_VF (exec_subVxVy x y s) hf
  refine ⟨fun hx hy => ?_, fun hx hy => ?_, fun hx hy => ?_, fun hx hy => ?_⟩
  · simpa [valueAfterFlag, hx, hy] using hflag hx
  · simpa [valueAfterFlag, hx, hy] using hVF
  · simpa [valueAfterFlag, hx, hy] using hflag hx
  · simpa [valueAfterFlag, hx, hy] using hVF

/-- Settles O26: as 8XY5, with the operands exchanged. -/
theorem reverseSubtractWritesFlagThenDifference : Obligations.ReverseSubtractWritesFlagThenDifference := by
  refine fun s x y => ⟨wordDecodesTo_group8 (n := 7) (by omega) decodeGroup8_of_opN_subnVxVy x y, fun f hf => ?_⟩
  have hflag := completesWritingVAndFlag_difference (exec_subnVxVy x y s) hf
  have hVF := completesWritingVAndFlag_difference_VF (exec_subnVxVy x y s) hf
  refine ⟨fun hx hy => ?_, fun hx hy => ?_, fun hx hy => ?_, fun hx hy => ?_⟩
  · simpa [valueAfterFlag, hx, hy] using hflag hx
  · simpa [valueAfterFlag, hx, hy] using hVF
  · simpa [valueAfterFlag, hx, hy] using hflag hx
  · simpa [valueAfterFlag, hx, hy] using hVF

theorem byte_shiftRight_one_toNat (a : Byte) : (a >>> 1).toNat = a.toNat / 2 := by
  rw [BitVec.toNat_ushiftRight, Nat.shiftRight_one]

theorem byte_shiftLeft_one_toNat (a : Byte) : (a <<< 1).toNat = a.toNat * 2 % 256 := by
  rw [BitVec.toNat_shiftLeft, Nat.shiftLeft_eq]

/-- Settles O27: where `X` is VF, what is shifted is the dropped bit. -/
theorem shiftsDropABitIntoTheFlag : Obligations.ShiftsDropABitIntoTheFlag := by
  refine fun s x y => ⟨wordDecodesTo_group8 (n := 6) (by omega) decodeGroup8_of_opN_shrVx x y,
    wordDecodesTo_group8 (n := 14) (by omega) decodeGroup8_of_opN_shlVx x y, fun hx => ⟨?_, ?_⟩, fun hx => ⟨?_, ?_⟩⟩
  · refine completesWritingVAndFlag_of_flag_first (exec_shrVx x y s) ?_ (fun _ => lowBitFlag_toNat _) fun h => absurd h hx
    rw [State.getV_setV_other _ _ hx, byte_shiftRight_one_toNat]
  · refine completesWritingVAndFlag_of_flag_first (exec_shlVx x y s) ?_ (fun _ => highBitFlag_toNat _) fun h => absurd h hx
    rw [State.getV_setV_other _ _ hx, byte_shiftLeft_one_toNat]
  · refine completesWritingVAndFlag_of_flag_first (exec_shrVx x y s) ?_ (fun _ => trivial) fun _ => trivial
    rw [hx, State.getV_setV_same, byte_shiftRight_one_toNat, lowBitFlag_toNat]
    omega
  · have := (s.getV x).isLt
    refine completesWritingVAndFlag_of_flag_first (exec_shlVx x y s) ?_ (fun _ => trivial) fun _ => trivial
    rw [hx, State.getV_setV_same, byte_shiftLeft_one_toNat, highBitFlag_toNat]
    omega

/-! ### The random byte -/

/-- A masked byte has no bit outside its mask. -/
theorem and_and_not_self (r nn : Byte) : r &&& nn &&& ~~~nn = 0 := by
  rw [BitVec.and_assoc, BitVec.and_not_self]
  exact BitVec.and_zero

/-- Settles O28: for every `rand` one `setV` of the masked byte. -/
theorem randomIsMaskedDraw : Obligations.RandomIsMaskedDraw := fun s x nn =>
  ⟨decodeWord_encodeWord (i := .rndVxNn x nn) rfl,
    completesWritingV_of_exec (exec_rndVxNn x nn s) (and_and_not_self _ nn),
    fun rand => ⟨_, execWith_rndVxNn rand x nn s,
      fun _ _ => (congrArg (BitVec.getLsbD · _) (s.getV_setV_same x _)).trans BitVec.getLsbD_and,
      fun _ hj => getV_setV_advance_other s _ hj, pcAdvances_advance (s.setV x _), sameExcept_setV_advance s x _⟩⟩

end Sys2Proof.Machine
end

section
/-! The arithmetic of `I` and the stores and loads at it (43_index_memory.md R161 to R166, 20_memory.md R74), and the key wait
(45_timers_keypad.md R181). -/

namespace Sys2Proof.Machine

/-! ### The index -/

theorem indexPlus_toNat (w : Word) (b : Byte) : (indexPlus w b).toNat = (w.toNat + b.toNat) % 65536 :=
  BitVec.toNat_ofNat _ _

/-- Five times a byte does not wrap (R162). -/
theorem glyphAddr_toNat (b : Byte) : (glyphAddr b).toNat = b.toNat * 5 := by
  have := b.isLt
  rw [glyphAddr, Config.glyphStride, BitVec.toNat_ofNat]
  omega

/-- Settles O30: each completion as one `setI`. -/
theorem indexArithmetic : Obligations.IndexArithmetic := fun s x =>
  ⟨wordDecodesTo_groupF (f := 0x1E) (by omega) decodeGroupF_of_mod_addIVx x,
    wordDecodesTo_groupF (f := 0x29) (by omega) decodeGroupF_of_mod_ldFVx x,
    ⟨_, exec_addIVx x s, indexPlus_toNat _ _, pcAdvances_advance (s.setI _), sameExcept_setI_advance s _⟩,
    ⟨_, exec_ldFVx x s, glyphAddr_toNat _, pcAdvances_advance (s.setI _), sameExcept_setI_advance s _⟩⟩

/-! ### Stores and loads at the index -/

theorem pcAdvances_advance_of_pc {s u : State} (h : u.pc = s.pc) : PcAdvances s u.advance := by
  rw [PcAdvances, ← h]
  exact pcAdvances_advance u

theorem pcAdvances_writeBytes_advance (s : State) (base : Nat) (bs : List Byte) :
    PcAdvances s (s.writeBytes base bs).advance :=
  pcAdvances_advance_of_pc (s.writeBytes_pc base bs)

theorem byte_ofNat_toNat {n : Nat} (h : n < 256) : (BitVec.ofNat 8 n).toNat = n :=
  (BitVec.toNat_ofNat n 8).trans (Nat.mod_eq_of_lt h)

/-- Settles O31: the three digits are read back from the run they were stored in. -/
theorem bcdStoresThreeDigits : Obligations.BcdStoresThreeDigits := by
  intro s x hs
  refine ⟨wordDecodesTo_groupF (f := 0x33) (by omega) decodeGroupF_of_mod_ldBVx x, fun hfit => ?_, fun hout => ?_⟩
  · have hv := (s.getV x).isLt
    have hdigit (k : Nat) (hk : k < 3) :
        (s.writeBytes s.i.toNat (bcdDigits (s.getV x))).readByte (indexAddr s k) = (bcdDigits (s.getV x))[k]'hk :=
      s.readByte_writeBytes_inside hs hk (by omega)
    refine ⟨_, (exec_ldBVx x s).trans (withRun_fits (.inr (by omega))), ?_, ?_, ?_, fun a h0 h1 h2 => ?_,
      pcAdvances_writeBytes_advance s _ _, sameExcept_writeBytes_advance s _ _⟩
    · exact (congrArg BitVec.toNat (hdigit 0 (by omega))).trans (byte_ofNat_toNat (by omega))
    · exact (congrArg BitVec.toNat (hdigit 1 (by omega))).trans (byte_ofNat_toNat (by omega))
    · exact (congrArg BitVec.toNat (hdigit 2 (by omega))).trans (byte_ofNat_toNat (by omega))
    · refine s.readByte_writeBytes_outside (outside_run_of_ne_indexAddr (n := 3) fun k hk => ?_)
      interval_cases k <;> assumption
  · exact (exec_ldBVx x s).trans (withRun_outside (by omega))

/-- Settles O32: each register is read back from its place in the run. -/
theorem registerStoreFillsARun : Obligations.RegisterStoreFillsARun := by
  intro s x hs
  refine ⟨wordDecodesTo_groupF (f := 0x55) (by omega) decodeGroupF_of_mod_ldMemIVx x, fun hfit => ?_, fun hout => ?_⟩
  · have hf : RunFits s.i.toNat (x.val + 1) := .inr (by omega)
    refine ⟨_, (exec_ldMemIVx x s).trans (withRun_fits hf), fun j hj => readByte_store_registers hs hj hf,
      fun a ha => s.readByte_writeBytes_outside ?_, pcAdvances_writeBytes_advance s _ _,
      sameExcept_writeBytes_advance s _ _⟩
    rw [firstRegs_length s (by omega)]
    exact outside_run_of_ne_indexAddr fun k hk => ha ⟨k, by omega⟩ (Nat.le_of_lt_succ hk)
  · exact (exec_ldMemIVx x s).trans (withRun_outside (by omega))

/-- Settles O33: the loaded registers by their byte, the others as before. -/
theorem registerLoadReadsARun : Obligations.RegisterLoadReadsARun := by
  intro s x
  refine ⟨wordDecodesTo_groupF (f := 0x65) (by omega) decodeGroupF_of_mod_ldVxMemI x, fun hfit => ?_, fun hout => ?_⟩
  · have hv (j : Reg) := loadRegs_getV s (n := x.val + 1) (by omega) j
    exact ⟨_, (exec_ldVxMemI x s).trans (withRun_fits (.inr (by omega))),
      fun j hj => (hv j).trans (if_pos (Nat.lt_succ_of_le hj)), fun j hj => (hv j).trans (if_neg (by omega)),
      pcAdvances_advance_of_pc (loadRegs_pc s _), (sameExcept_loadRegs s _).append (sameExcept_advance _)⟩
  · exact (exec_ldVxMemI x s).trans (withRun_outside (by omega))

/-! ### The key wait -/

theorem leastPressed_eq_some_iff {s : State} {k : Reg} :
    leastPressed s = some k ↔ s.getKey k = true ∧ ∀ j : Reg, j.val < k.val → s.getKey j = false := by
  rw [leastPressed, ← Fin.find?_eq_find?_finRange]
  exact Fin.find?_eq_some_iff

theorem keyValue_canonical_toNat (k : Reg) : (keyValue .canonical k).toNat = k.val :=
  byte_ofNat_toNat (by omega)

/-- Settles O39: the poll by the least pressed key. -/
theorem keyWaitPolls : Obligations.KeyWaitPolls := by
  intro s x
  refine ⟨wordDecodesTo_groupF (f := 0x0A) (by omega) decodeGroupF_of_mod_ldVxK x,
    fun h => exec_ldVxK_idle x (leastPressed_none.mpr h), fun k hk hleast => ?_⟩
  have hexec := exec_ldVxK_pressed x (leastPressed_eq_some_iff.mpr ⟨hk, hleast⟩)
  exact ⟨fun hm => completesWritingV_of_exec hexec (by rw [hm]; rfl),
    fun hm => completesWritingV_of_exec hexec (by rw [hm]; exact keyValue_canonical_toNat k)⟩

end Sys2Proof.Machine
end

section
/-! The framebuffer instructions (44_display.md R170 to R172): the clear, and the sprite by the pixels it covers. -/

namespace Sys2Proof.Machine

/-- Settles O34: the whole word selects it, and a blank framebuffer has no pixel on. -/
theorem clearTurnsEveryPixelOff : Obligations.ClearTurnsEveryPixelOff := fun s =>
  ⟨decodeWord_eq_some_iff_toNat (i := .cls) rfl, _, exec_cls s, Framebuffer.pixel_blank,
    pcAdvances_advance (s.setFb _), exec_sameExcept (exec_cls s)⟩

/-- The sprite of DXYN covers the pixels that its rows hit. -/
theorem rowsHit_iff_spriteCovers {s : State} {x y : Reg} {n : Nat} {px : Fin 64} {py : Fin 32} :
    RowsHit s (s.getV x).toNat (s.getV y).toNat n px py ↔ SpriteCovers s x y n px py := by
  constructor
  · rintro ⟨row, hrow, hy, col, hcol, hx, hbit⟩
    exact ⟨row, col, hrow, hcol, hx, hy, hbit⟩
  · rintro ⟨row, col, hrow, hcol, hx, hy, hbit⟩
    exact ⟨row, hrow, hy, col, hcol, hx, hbit⟩

/-! ### What a draw leaves -/

theorem drawn_pixel_covered {s : State} {x y : Reg} {n : Nat} (hn : n < 16) {px : Fin 64} {py : Fin 32}
    (h : SpriteCovers s x y n px py) : (s.drawn x y n).pixel px py = !s.pixel px py := by
  classical
  have hd := drawRows_pixel s (s.getV x).toNat (s.getV y).toNat hn.le px py
  rw [decide_eq_true (rowsHit_iff_spriteCovers.mpr h), Bool.xor_true] at hd
  exact hd

theorem drawn_pixel_other {s : State} {x y : Reg} {n : Nat} (hn : n < 16) {px : Fin 64} {py : Fin 32}
    (h : ¬ SpriteCovers s x y n px py) : (s.drawn x y n).pixel px py = s.pixel px py := by
  classical
  have hd := drawRows_pixel s (s.getV x).toNat (s.getV y).toNat hn.le px py
  rw [decide_eq_false (mt rowsHit_iff_spriteCovers.mp h), Bool.xor_false] at hd
  exact hd

/-- The sprite covers a pixel that is on. -/
def Collides (s : State) (x y : Reg) (n : Nat) : Prop := ∃ px py, SpriteCovers s x y n px py ∧ s.pixel px py = true

theorem drawRows_collision_iff {s : State} {x y : Reg} {n : Nat} (hn : n < 16) :
    (drawRows s (s.getV x).toNat (s.getV y).toNat n).2 = true ↔ Collides s x y n := by
  simp only [drawRows_collision s _ _ hn.le, rowsHit_iff_spriteCovers, Collides]

theorem drawn_flag (s : State) (x y : Reg) (n : Nat) :
    (s.drawn x y n).getV VF = collisionFlag (drawRows s (s.getV x).toNat (s.getV y).toNat n).2 :=
  State.getV_setV_same _ VF _

theorem drawn_flag_collision {s : State} {x y : Reg} {n : Nat} (hn : n < 16) (h : Collides s x y n) :
    (s.drawn x y n).getV VF = 1 := by
  rw [drawn_flag, (drawRows_collision_iff hn).mpr h]
  rfl

theorem drawn_flag_clean {s : State} {x y : Reg} {n : Nat} (hn : n < 16) (h : ¬ Collides s x y n) :
    (s.drawn x y n).getV VF = 0 := by
  rw [drawn_flag, Bool.eq_false_iff.mpr (mt (drawRows_collision_iff hn).mp h)]
  rfl

theorem not_collides_of_off {s : State} {x y : Reg} {n : Nat}
    (h : ∀ px py, SpriteCovers s x y n px py → s.pixel px py = false) : ¬ Collides s x y n := by
  rintro ⟨px, py, hc, hp⟩
  exact Bool.false_ne_true ((h px py hc).symm.trans hp)

theorem pcAdvances_drawn (s : State) (x y : Reg) (n : Nat) : PcAdvances s (s.drawn x y n) :=
  pcAdvances_advance_of_pc rfl

theorem wordDecodesTo_drwVxVyN {n : Nat} (hn : n < 16) (x y : Reg) :
    WordDecodesTo (0xD000 + x.val * 256 + y.val * 16 + n) (.drwVxVyN x y n) :=
  decodeWord_encodeXYN_groupD hn x y

/-- Settles O35: the covered pixels are those the rows hit, each of which is toggled once. -/
theorem drawTogglesTheSpritePixels : Obligations.DrawTogglesTheSpritePixels := by
  refine fun s x y n hn => ⟨wordDecodesTo_drwVxVyN hn x y, fun hfit => ?_⟩
  exact ⟨_, (exec_drwVxVyN x y n s).trans (withRun_fits (by omega)),
    fun _ _ => ⟨drawn_pixel_covered hn, drawn_pixel_other hn⟩, drawn_flag_collision hn,
    fun h => drawn_flag_clean hn (not_collides_of_off h), fun _ hj => getV_drawn_other s x y n hj,
    pcAdvances_drawn s x y n, sameExcept_drawn s x y n⟩

/-- Settles O36: the rows are checked as one run before anything is drawn. -/
theorem drawOutsideMemoryFaults : Obligations.DrawOutsideMemoryFaults := fun s x y n _ h0 hout =>
  (exec_drwVxVyN x y n s).trans (withRun_outside (by omega))

/-! ### Drawing twice -/

/-- A sprite is read from `I`, memory and two registers, none of which a draw at registers other than VF writes. -/
theorem spriteCovers_drawn_iff {s : State} {x y : Reg} (hx : x ≠ VF) (hy : y ≠ VF) {n : Nat} {px : Fin 64} {py : Fin 32} :
    SpriteCovers (s.drawn x y n) x y n px py ↔ SpriteCovers s x y n px py := by
  have hread (k : Nat) : (s.drawn x y n).readByte (indexAddr (s.drawn x y n) k) = s.readByte (indexAddr s k) := rfl
  simp only [SpriteCovers, getV_drawn_other s x y n hx, getV_drawn_other s x y n hy, hread]

theorem drawn_drawn_pixel {s : State} {x y : Reg} (hx : x ≠ VF) (hy : y ≠ VF) {n : Nat} (hn : n < 16) (px : Fin 64)
    (py : Fin 32) : ((s.drawn x y n).drawn x y n).pixel px py = s.pixel px py := by
  by_cases hc : SpriteCovers s x y n px py
  · rw [drawn_pixel_covered hn ((spriteCovers_drawn_iff hx hy).mpr hc), drawn_pixel_covered hn hc, Bool.not_not]
  · rw [drawn_pixel_other hn (mt (spriteCovers_drawn_iff hx hy).mp hc), drawn_pixel_other hn hc]

/-- The second draw collides where the first turned a pixel on. -/
theorem collides_drawn_iff {s : State} {x y : Reg} (hx : x ≠ VF) (hy : y ≠ VF) {n : Nat} (hn : n < 16) :
    Collides (s.drawn x y n) x y n ↔ ∃ px py, SpriteCovers s x y n px py ∧ s.pixel px py = false := by
  refine exists_congr fun px => exists_congr fun py => ?_
  rw [spriteCovers_drawn_iff hx hy]
  refine and_congr_right fun hc => ?_
  rw [drawn_pixel_covered hn hc, Bool.not_eq_true']

/-- Settles O37: both draws toggle the same pixels. -/
theorem drawingTwiceRestoresTheFramebuffer : Obligations.DrawingTwiceRestoresTheFramebuffer := by
  intro s t x y n hn hx hy h
  obtain ⟨hfit, rfl⟩ := exec_drwVxVyN_eq_next h
  refine ⟨_, (exec_drwVxVyN x y n _).trans (withRun_fits hfit), drawn_drawn_pixel hx hy hn,
    fun h => drawn_flag_collision hn ((collides_drawn_iff hx hy hn).mpr h), fun h => drawn_flag_clean hn fun hc => ?_⟩
  obtain ⟨px, py, hcov, hoff⟩ := (collides_drawn_iff hx hy hn).mp hc
  exact Bool.false_ne_true (hoff.symm.trans (h px py hcov))

end Sys2Proof.Machine
end

section
/-! Reset and LOAD (10_state.md R39, 70_reset_and_hazards.md R220 to R224): the state after reset item by item, what memory holds
after a LOAD, and the first fetch from it. -/

namespace Sys2Proof.Machine

/-! ### Reset -/

theorem construct_readByte_font (m : FX0AMode) (f : Vector Byte 80) (a : Fin 80) : (construct m f).readByte a.val = f[a] :=
  dif_pos a.isLt

theorem construct_readByte_above (m : FX0AMode) (f : Vector Byte 80) {a : Nat} (h : 80 ≤ a) :
    (construct m f).readByte a = 0 :=
  dif_neg (by omega)

/-- Settles O46: memory by the font and the zeros above it, the other items by their reset values. -/
theorem resetStateIsTheOneGiven : Obligations.ResetStateIsTheOneGiven := by
  refine ⟨rfl, construct_readByte_font .original defaultFont,
    fun _ h => construct_readByte_above .original defaultFont h, rfl, fun j => ?stack, fun j => ?regs, rfl, rfl, rfl,
    Framebuffer.pixel_blank, fun k => ?keys, rfl, rfl, rfl⟩
  case stack => simp [State.reset]
  case regs => simp [State.reset, State.getV]
  case keys => simp [State.reset, State.getKey]

/-! ### LOAD -/

/-- The font is restored at 0..79 (R221). -/
theorem loadFont_readByte_font {s : State} (hs : s.mem.wf s.font = true) (a : Fin 80) :
    (loadFont s).readByte a.val = s.font[a] := by
  have h := s.readByte_writeBytes_inside hs (base := 0) (bs := s.font.toList) (k := a.val) (by simp) (by omega)
  rw [Nat.zero_add] at h
  exact h.trans (by simp)

theorem loadFont_readByte_above (s : State) {a : Nat} (h : 80 ≤ a) : (loadFont s).readByte a = s.readByte a :=
  s.readByte_writeBytes_outside (.inr (by simpa using h))

theorem loadFont_wf {s : State} (hs : s.mem.wf s.font = true) : (loadFont s).mem.wf (loadFont s).font = true := by
  rw [((sameExcept_loadFont s) .params (by simp)).2]
  exact s.writeBytes_wf 0 _ hs

/-- The image stands from 0x200 on. -/
theorem loadImage_readByte_image {s : State} (hs : s.mem.wf s.font = true) {bytes : List Byte} (len : Fin 3585)
    (hlen : bytes.length ≤ 3584) {k : Nat} (hk : k < bytes.length) :
    (loadImage bytes len s).readByte (0x200 + k) = bytes[k] :=
  s.readByte_writeBytes_inside (base := 0x200) hs hk (by omega)

theorem loadImage_readByte_outside (s : State) {bytes : List Byte} (len : Fin 3585) {a : Nat}
    (h : a < 0x200 ∨ 0x200 + bytes.length ≤ a) : (loadImage bytes len s).readByte a = s.readByte a :=
  s.readByte_writeBytes_outside h

/-- Settles O47: the image is written over the memory with its font restored, and does not reach the font. -/
theorem loadPlacesFontAndImage : Obligations.LoadPlacesFontAndImage := by
  intro s bytes hs hlen
  refine ⟨_, transact_load_fits s hlen, fun a => ?font, fun j => ?image, fun a h80 ha => ?kept, rfl, rfl, rfl, ?frame⟩
  case font => exact (loadImage_readByte_outside _ _ (.inl (by omega))).trans (loadFont_readByte_font hs a)
  case image => exact loadImage_readByte_image (loadFont_wf hs) _ hlen j.isLt
  case kept => exact (loadImage_readByte_outside _ _ ha).trans (loadFont_readByte_above s h80)
  case frame =>
    have h := sameExcept_load bytes s
    rwa [transact_load_fits s hlen] at h

/-- Settles O48: only the font was written. -/
theorem oversizedLoadRewritesTheFontOnly : Obligations.OversizedLoadRewritesTheFontOnly := fun s _ hs hlen =>
  ⟨loadFont s, transact_load_tooLarge s (Nat.not_le_of_lt hlen), loadFont_readByte_font hs,
    fun _ h => loadFont_readByte_above s h, sameExcept_loadFont s⟩

/-- Settles O49: LOAD sets `pc` on the first byte of the image. -/
theorem firstFetchAfterLoadIsTheImage : Obligations.FirstFetchAfterLoadIsTheImage := by
  intro m f hi lo rest hlen
  have hlen : (hi :: lo :: rest).length ≤ 3584 := hlen
  have himage {k : Nat} := loadImage_readByte_image (k := k) (bytes := hi :: lo :: rest)
    (loadFont_wf (construct_inv m f).memory) ⟨rest.length + 2, Nat.lt_succ_of_le hlen⟩ hlen
  refine ⟨_, transact_load_fits _ hlen, ?_⟩
  rw [fetchWord_of_bytes (hi := hi) (lo := lo), assembleWord_toNat]
  · exact himage (k := 0) (by simp)
  · exact himage (k := 1) (by simp)

end Sys2Proof.Machine
end
